-- ==== Sys2Proof/Word.lean ====
section
/-! DEFINITION. The word types of the core (00_scope.md R7, R9). The machine's bytes, its 16-bit offsets and its
32-bit register slots are what the spec itself treats as bits; counts (`cycles`) and memory keys are `Nat`. -/

namespace Sys2Proof

/-- A byte: a memory cell, a segment selector, an 8-bit register view (R7). -/
abbrev Byte := BitVec 8

/-- A 16-bit value: PC, SP, an offset inside a segment (R37, R38, R80). -/
abbrev Half := BitVec 16

/-- A 32-bit register slot (R31). -/
abbrev Slot := BitVec 32

/-- A 3-bit register field of an extension sub-byte (R141). -/
abbrev RegField := BitVec 3

end Sys2Proof
end

