-- ==== Sys2Proof/Machine/Bits.lean ====
section
/-! DEFINITION. The bit-field, byte-order and sign-extension helpers of the notation of R9. -/

namespace Sys2Proof.Machine

/-- `v[7:0]` of a 16-bit value. -/
def lo8 (v : Half) : Byte := v.extractLsb' 0 8

/-- `v[15:8]` of a 16-bit value. -/
def hi8 (v : Half) : Byte := v.extractLsb' 8 8

/-- `hi : lo`, the 16-bit value of two bytes (R9). -/
def half (hi lo : Byte) : Half := hi ++ lo

/-- `sint8(v)` added to an offset, mod 2^16 (R9, R131, R400). -/
def addSigned (o : Half) (v : Byte) : Half := o + v.signExtend 16

/-- Bits `w*lane + w - 1 : w*lane` of a slot (R31, R32). -/
def getLane (w : Nat) (x : Slot) (lane : Nat) : BitVec w := x.extractLsb' (w * lane) w

/-- A slot with those bits replaced and every other bit kept (R31, R32). -/
def setLane {w : Nat} (x : Slot) (lane : Nat) (v : BitVec w) : Slot :=
  (x &&& ~~~((BitVec.allOnes w).setWidth 32 <<< (w * lane))) ||| (v.setWidth 32 <<< (w * lane))

end Sys2Proof.Machine
end

