-- ==== Sys2Proof/Config.lean ====
section
/-! DEFINITION. What is fixed for one machine: the configuration record (R6), the named parameters of R8, and the
values the spec leaves open. A parameter that is plain data stands in State as an argument of the step (notes 1, 2,
4, 6); a parameter that is a function, and every draw, is an opaque constant here (notes 3, 5, 7, 8). -/

namespace Sys2Proof

/-- The ten extension families of R3. -/
inductive Family
  | xtop1 | xtop2 | xtop3 | xtop1Trx
  | xtop1Math | xtop2Math | xtop3Math
  | xtop1Stor | xtop2Stor | xtop3Stor
deriving DecidableEq, Repr

/-- The configuration record of R6. The host writes it between steps (R467); no instruction reads or writes it except
through the gates and the policy. `tracing` has no effect on any state (R47). -/
structure Configuration where
  allow65c02 : Bool
  allow65x02 : Bool
  ignoreIllegalInstructions : Bool
  allowHalting : Bool
  haltOnBRK : Bool
  tracing : Bool
deriving DecidableEq, Repr

/-- `EXT_OPCODE` (R8, R145): the top-level opcode byte of each family. -/
structure ExtOpcodes where
  xtop1 : Byte
  xtop2 : Byte
  xtop3 : Byte
  xtop1Trx : Byte
  xtop1Math : Byte
  xtop2Math : Byte
  xtop3Math : Byte
  xtop1Stor : Byte
  xtop2Stor : Byte
  xtop3Stor : Byte
deriving DecidableEq, Repr

namespace ExtOpcodes

/-- `EXT_OPCODE[f]`. -/
def byte (e : ExtOpcodes) : Family → Byte
  | .xtop1 => e.xtop1
  | .xtop2 => e.xtop2
  | .xtop3 => e.xtop3
  | .xtop1Trx => e.xtop1Trx
  | .xtop1Math => e.xtop1Math
  | .xtop2Math => e.xtop2Math
  | .xtop3Math => e.xtop3Math
  | .xtop1Stor => e.xtop1Stor
  | .xtop2Stor => e.xtop2Stor
  | .xtop3Stor => e.xtop3Stor

/-- The ten bytes, in the order of R3's families. -/
def bytes (e : ExtOpcodes) : List Byte :=
  [e.xtop1, e.xtop2, e.xtop3, e.xtop1Trx, e.xtop1Math, e.xtop2Math, e.xtop3Math,
    e.xtop1Stor, e.xtop2Stor, e.xtop3Stor]

end ExtOpcodes

/-- The 100 bytes of R133 that name no standard and no 65C02 instruction. -/
def freeBytes : List Byte :=
  [0x02#8, 0x03#8, 0x04#8, 0x07#8, 0x0B#8, 0x0C#8, 0x0F#8, 0x12#8, 0x13#8, 0x14#8, 0x17#8, 0x1A#8, 0x1B#8, 0x1C#8,
    0x1F#8] ++
  [0x22#8, 0x23#8, 0x27#8, 0x2B#8, 0x2F#8, 0x32#8, 0x33#8, 0x34#8, 0x37#8, 0x3A#8, 0x3B#8, 0x3C#8, 0x3F#8] ++
  [0x42#8, 0x43#8, 0x44#8, 0x47#8, 0x4B#8, 0x4F#8, 0x52#8, 0x53#8, 0x54#8, 0x57#8, 0x5A#8, 0x5B#8, 0x5C#8, 0x5F#8] ++
  [0x62#8, 0x63#8, 0x67#8, 0x6B#8, 0x6F#8, 0x72#8, 0x73#8, 0x77#8, 0x7A#8, 0x7B#8, 0x7C#8, 0x7F#8] ++
  [0x82#8, 0x83#8, 0x87#8, 0x89#8, 0x8B#8, 0x8F#8, 0x92#8, 0x93#8, 0x97#8, 0x9B#8, 0x9F#8] ++
  [0xA3#8, 0xA7#8, 0xAB#8, 0xAF#8, 0xB2#8, 0xB3#8, 0xB7#8, 0xBB#8, 0xBF#8] ++
  [0xC2#8, 0xC3#8, 0xC7#8, 0xCB#8, 0xCF#8, 0xD2#8, 0xD3#8, 0xD4#8, 0xD7#8, 0xDA#8, 0xDB#8, 0xDC#8, 0xDF#8] ++
  [0xE2#8, 0xE3#8, 0xE7#8, 0xEB#8, 0xEF#8, 0xF2#8, 0xF3#8, 0xF4#8, 0xF7#8, 0xFA#8, 0xFB#8, 0xFC#8, 0xFF#8]

namespace ExtOpcodes

/-- The maps R145 admits: injective, and into the free bytes of R133. -/
def wf (e : ExtOpcodes) : Bool :=
  decide e.bytes.Nodup && e.bytes.all (fun b => freeBytes.contains b)

end ExtOpcodes

/-- Draws one byte for each code from the bytes still available, so that no byte is drawn twice. -/
def drawDistinct : List Byte → List Nat → List Byte
  | _, [] => []
  | avail, c :: cs =>
    let k := c % avail.length
    avail.getD k 0 :: drawDistinct (avail.eraseIdx k) cs

/-- The admissible map that ten arbitrary codes draw from the free bytes. Every draw satisfies R145
(`ExtOpcodes.ofCodes_wf` in Laws/Encoding.lean). -/
def ExtOpcodes.ofCodes (code : Nat → Nat) : ExtOpcodes :=
  match drawDistinct freeBytes [code 0, code 1, code 2, code 3, code 4, code 5, code 6, code 7, code 8, code 9] with
  | [a, b, c, d, e, f, g, h, i, j] => ⟨a, b, c, d, e, f, g, h, i, j⟩
  | _ => ⟨0, 0, 0, 0, 0, 0, 0, 0, 0, 0⟩

/-- The admitted values of `TXS_SP_HIGH` (R8, R226, D14): what TXS makes of SP[15:8]. -/
inductive TxsSpHigh
  | identity | const01 | const00
deriving DecidableEq, Repr, Inhabited

/-- The parameters of R8 that are plain data. They are arguments of the step in the spec; here they are a field of
State that no step writes, so that a statement about every state holds for every admitted value. -/
structure Params where
  ext : ExtOpcodes
  jmpIndPageWrap : Bool
  txsSpHigh : TxsSpHigh
deriving DecidableEq, Repr

/-- The operation given to `DECIMAL_ARITH` (R8). -/
inductive DecimalOp
  | adc | sbc
deriving DecidableEq, Repr

/-- What an ADC or SBC computes: the byte for A and the flags C, Z and N (R240, R241, R242). -/
structure ArithResult where
  value : Byte
  c : Bool
  z : Bool
  n : Bool
deriving DecidableEq, Repr, Inhabited

/-- What a cycle cost may depend on besides the page-cross and taken bits (R520): the opcode with its mode, or the
family with its sub-byte. -/
inductive CycleKey
  | standard (op : Byte)
  | extension (f : Family) (sub : Byte)
deriving DecidableEq, Repr

/-! The values the spec leaves open. None has a body: nothing can be proved about their values. -/

/-- `DECIMAL_ARITH` (R242, D19; note 3): ADC and SBC with D = 1. -/
opaque Config.decimalArith : DecimalOp → Byte → Byte → Bool → ArithResult

/-- `RESET_SP` (R500, D25; note 5): the k-th draw of SP made by an `init()`. -/
opaque Config.resetSp : Nat → Half

/-- The free part of `CYCLE_COST` (R520, D26; note 7), for a key, the page-cross bit and the taken bit. -/
opaque Config.cycleFree : CycleKey → Bool → Bool → Nat

/-- `CYCLE_COST(reset)` (R523, D45; note 8). -/
opaque Config.resetCycles : Nat

/-- `JMP_IND_PAGE_WRAP` of the machine State.reset describes (R130, D18; note 4). -/
opaque Config.jmpIndPageWrap : Bool

/-- `TXS_SP_HIGH` of the machine State.reset describes (R226, D14; note 6). -/
opaque Config.txsSpHigh : TxsSpHigh

/-- The ten codes that draw `EXT_OPCODE` of the machine State.reset describes (R145, D1; note 2). -/
opaque Config.extCode : Nat → Nat

/-- `EXT_OPCODE` of the machine State.reset describes: an unknown admissible map (note 2). -/
def Config.extOpcode : ExtOpcodes := ExtOpcodes.ofCodes Config.extCode

/-- The parameters of the machine State.reset describes. -/
def Config.params : Params :=
  { ext := Config.extOpcode, jmpIndPageWrap := Config.jmpIndPageWrap, txsSpHigh := Config.txsSpHigh }

/-- The configuration State.reset starts with (note 1): the conventions of 95_test_vectors.md. -/
def Config.configuration : Configuration :=
  { allow65c02 := true, allow65x02 := true, ignoreIllegalInstructions := false, allowHalting := true,
    haltOnBRK := false, tracing := false }

end Sys2Proof
end

