-- ==== Sys2Proof/Syntax.lean ====
section
/-! DEFINITION. The instructions: one constructor for each mnemonic of spec/opcode_table.json, with its operand forms
as arguments (note 20). JMP, MOVS and illegal_sub-op have two constructors each. -/

namespace Sys2Proof

/-- The memory addressing modes of R122, each with its operand bytes. -/
inductive MemMode
  /-- zero page (R124) -/
  | zp (z : Byte)
  /-- zero page,X (R125) -/
  | zpx (z : Byte)
  /-- zero page,Y (R125) -/
  | zpy (z : Byte)
  /-- absolute (R126) -/
  | abs (a : Half)
  /-- absolute,X (R127) -/
  | absx (a : Half)
  /-- absolute,Y (R127) -/
  | absy (a : Half)
  /-- indexed indirect (R128) -/
  | indx (z : Byte)
  /-- indirect indexed (R129) -/
  | indy (z : Byte)
deriving DecidableEq, Repr

/-- A read operand: immediate (R123) or memory. -/
inductive Operand
  | imm (v : Byte)
  | mem (m : MemMode)
deriving DecidableEq, Repr

/-- The target of a shift or rotate (R259): the accumulator or memory. -/
inductive ShiftTarget
  | acc
  | mem (m : MemMode)
deriving DecidableEq, Repr

/-- The segment selectors, numbered 0, 1, 2 by XTOP1_TRX (R39). -/
inductive SegReg
  | ps | ds | ss
deriving DecidableEq, Repr

/-- The addressing modes of the indexed stores, with their operand bytes (R140). -/
inductive StoreMode
  /-- m = 0: zero-page offset in DS -/
  | zp (zz : Byte)
  /-- m = 1: absolute offset in DS -/
  | abs (a : Half)
  /-- m = 2: absolute offset with an explicit segment -/
  | far (a : Half) (seg : Byte)
  /-- m = 3: stack-relative with a signed displacement -/
  | stack (dd : Byte)
deriving DecidableEq, Repr

/-- The instructions of the opcode table. -/
inductive Instr
  -- 40_load_store_transfer.md
  | lda (o : Operand)
  | ldx (o : Operand)
  | ldy (o : Operand)
  | sta (m : MemMode)
  | stx (m : MemMode)
  | sty (m : MemMode)
  | stz (m : MemMode)
  | tax
  | tay
  | txa
  | tya
  | tsx
  | txs
  -- 41_alu_shift.md
  | adc (o : Operand)
  | sbc (o : Operand)
  | and (o : Operand)
  | eor (o : Operand)
  | ora (o : Operand)
  | bit (m : MemMode)
  | cmp (o : Operand)
  | cpx (o : Operand)
  | cpy (o : Operand)
  | inc (m : MemMode)
  | dec (m : MemMode)
  | inx
  | iny
  | dex
  | dey
  | asl (t : ShiftTarget)
  | lsr (t : ShiftTarget)
  | rol (t : ShiftTarget)
  | ror (t : ShiftTarget)
  -- 42_control.md
  | bpl (rr : Byte)
  | bmi (rr : Byte)
  | bvc (rr : Byte)
  | bvs (rr : Byte)
  | bcc (rr : Byte)
  | bcs (rr : Byte)
  | bne (rr : Byte)
  | beq (rr : Byte)
  | bra (rr : Byte)
  | jmpAbs (a : Half)
  | jmpInd (a : Half)
  | jsr (a : Half)
  | rts
  | rti
  | brk
  | nop
  -- 43_stack_flags.md
  | pha
  | php
  | pla
  | plp
  | clc
  | sec
  | cli
  | sei
  | clv
  | cld
  | sed
  -- 44_ext_regops.md
  | movNotB (d s : RegField)
  | segxB (x : BitVec 6)
  | illegalXtop1 (x : BitVec 7)
  | movNotW (d s : RegField)
  | andW (d s : RegField)
  | xorW (d s : RegField)
  | orW (d s : RegField)
  | movNotL (d s : RegField)
  | andL (d s : RegField)
  | xorL (d s : RegField)
  | orL (d s : RegField)
  | movsToSeg (g : SegReg) (r : RegField)
  | movsFromSeg (r : RegField) (g : SegReg)
  | illegalTrx (x : BitVec 4) (g : BitVec 3)
  | refusedTrx (x : BitVec 7)
  -- 45_ext_math_store.md
  | addB (d s : RegField) (k : Option Byte)
  | subB (d s : RegField) (k : Option Byte)
  | addW (d s : RegField) (k : Option Half)
  | subW (d s : RegField) (k : Option Half)
  | addL (d s : RegField) (k : Option Slot)
  | subL (d s : RegField) (k : Option Slot)
  | stB (s i : RegField) (m : StoreMode)
  | stW (s i : RegField) (m : StoreMode)
  | stL (s i : RegField) (m : StoreMode)
deriving DecidableEq, Repr

end Sys2Proof
end

