-- ==== Sys2Proof/WellFormed.lean ====
section
/-! DEFINITION. Which operand forms each instruction has: the "Operands" and "Encoding" lines of the instruction
rules. A form an instruction does not have is ill-formed: no bytes decode to it. -/

namespace Sys2Proof

/-- The names of the addressing modes (R122). -/
inductive Form
  | imm | acc | zp | zpx | zpy | abs | absx | absy | indx | indy
deriving DecidableEq, Repr

/-- The mode a memory operand is written in. -/
def MemMode.form : MemMode → Form
  | .zp _ => .zp
  | .zpx _ => .zpx
  | .zpy _ => .zpy
  | .abs _ => .abs
  | .absx _ => .absx
  | .absy _ => .absy
  | .indx _ => .indx
  | .indy _ => .indy

/-- The mode a read operand is written in. -/
def Operand.form : Operand → Form
  | .imm _ => .imm
  | .mem m => m.form

/-- The mode a shift target is written in. -/
def ShiftTarget.form : ShiftTarget → Form
  | .acc => .acc
  | .mem m => m.form

/-- The eight modes of LDA, ADC, SBC, AND, EOR, ORA and CMP (R200, R240 to R247). -/
def aluForms : List Form := [.imm, .zp, .zpx, .abs, .absx, .absy, .indx, .indy]

/-- The modes of ASL, LSR, ROL and ROR (R260 to R263). -/
def shiftForms : List Form := [.acc, .zp, .zpx, .abs, .absx]

/-- The modes of INC, DEC and STZ (R250, R251, R213). -/
def modifyForms : List Form := [.zp, .zpx, .abs, .absx]

/-- An instruction the encoding tables of 30_encoding.md have. -/
def Instr.wellFormed : Instr → Bool
  | .lda o | .adc o | .sbc o | .and o | .eor o | .ora o | .cmp o => aluForms.contains o.form
  | .ldx o => [Form.imm, .zp, .zpy, .abs, .absy].contains o.form
  | .ldy o => [Form.imm, .zp, .zpx, .abs, .absx].contains o.form
  | .sta m => [Form.zp, .zpx, .abs, .absx, .absy, .indx, .indy].contains m.form
  | .stx m => [Form.zp, .zpy, .abs].contains m.form
  | .sty m => [Form.zp, .zpx, .abs].contains m.form
  | .stz m | .inc m | .dec m => modifyForms.contains m.form
  | .bit m => [Form.zp, .abs].contains m.form
  | .cpx o | .cpy o => [Form.imm, .zp, .abs].contains o.form
  | .asl t | .lsr t | .rol t | .ror t => shiftForms.contains t.form
  | .illegalTrx _ g => decide (3 ≤ g.toNat)
  | .tax | .tay | .txa | .tya | .tsx | .txs => true
  | .inx | .iny | .dex | .dey => true
  | .bpl _ | .bmi _ | .bvc _ | .bvs _ | .bcc _ | .bcs _ | .bne _ | .beq _ | .bra _ => true
  | .jmpAbs _ | .jmpInd _ | .jsr _ | .rts | .rti | .brk | .nop => true
  | .pha | .php | .pla | .plp | .clc | .sec | .cli | .sei | .clv | .cld | .sed => true
  | .movNotB _ _ | .segxB _ | .illegalXtop1 _ => true
  | .movNotW _ _ | .andW _ _ | .xorW _ _ | .orW _ _ => true
  | .movNotL _ _ | .andL _ _ | .xorL _ _ | .orL _ _ => true
  | .movsToSeg _ _ | .movsFromSeg _ _ | .refusedTrx _ => true
  | .addB _ _ _ | .subB _ _ _ | .addW _ _ _ | .subW _ _ _ | .addL _ _ _ | .subL _ _ _ => true
  | .stB _ _ _ | .stW _ _ _ | .stL _ _ _ => true

end Sys2Proof
end

