-- ==== Sys2Proof/Decode.lean ====
section
/-! DEFINITION. The decoder of 30_encoding.md, total on any six bytes, and after it the encoder, written from the
"Encoding" lines of the instruction rules. No instruction is longer than six bytes (R120). The decoder rejects a byte
that starts no instruction by name (`Decoded.illegalOpcode`); the capability gates are checked by the meanings
(note 15), before any operand byte counts as fetched. -/

namespace Sys2Proof

/-- The six bytes at (PS, PC), lowest offset first. -/
structure Window where
  b0 : Byte
  b1 : Byte
  b2 : Byte
  b3 : Byte
  b4 : Byte
  b5 : Byte
deriving DecidableEq, Repr

/-- The first six bytes of a list, zeros where it ends. -/
def Window.ofList (bs : List Byte) : Window :=
  ⟨bs.getD 0 0, bs.getD 1 0, bs.getD 2 0, bs.getD 3 0, bs.getD 4 0, bs.getD 5 0⟩

/-- The window's bytes, in order. -/
def Window.bytes (w : Window) : List Byte := [w.b0, w.b1, w.b2, w.b3, w.b4, w.b5]

/-- The 16-bit operand after a one-byte opcode, low byte first (R121). -/
def Window.abs (w : Window) : Half := Machine.half w.b2 w.b1

/-- What six bytes decode to. -/
inductive Decoded
  /-- an instruction -/
  | instr (i : Instr)
  /-- no instruction: the byte has no entry in the decode table (R451, case 1) -/
  | illegalOpcode (op : Byte)
deriving DecidableEq, Repr

/-- A row of the decode table: an opcode byte and the instruction made from the bytes after it. -/
abbrev OpcodeRow := Byte × (Window → Instr)

/-- Rows of R132: loads, stores and transfers. -/
def loadStoreRows : List OpcodeRow := [
  (0xA9#8, fun w => .lda (.imm w.b1)), (0xA5#8, fun w => .lda (.mem (.zp w.b1))),
  (0xB5#8, fun w => .lda (.mem (.zpx w.b1))), (0xAD#8, fun w => .lda (.mem (.abs w.abs))),
  (0xBD#8, fun w => .lda (.mem (.absx w.abs))), (0xB9#8, fun w => .lda (.mem (.absy w.abs))),
  (0xA1#8, fun w => .lda (.mem (.indx w.b1))), (0xB1#8, fun w => .lda (.mem (.indy w.b1))),
  (0xA2#8, fun w => .ldx (.imm w.b1)), (0xA6#8, fun w => .ldx (.mem (.zp w.b1))),
  (0xB6#8, fun w => .ldx (.mem (.zpy w.b1))), (0xAE#8, fun w => .ldx (.mem (.abs w.abs))),
  (0xBE#8, fun w => .ldx (.mem (.absy w.abs))),
  (0xA0#8, fun w => .ldy (.imm w.b1)), (0xA4#8, fun w => .ldy (.mem (.zp w.b1))),
  (0xB4#8, fun w => .ldy (.mem (.zpx w.b1))), (0xAC#8, fun w => .ldy (.mem (.abs w.abs))),
  (0xBC#8, fun w => .ldy (.mem (.absx w.abs))),
  (0x85#8, fun w => .sta (.zp w.b1)), (0x95#8, fun w => .sta (.zpx w.b1)),
  (0x8D#8, fun w => .sta (.abs w.abs)), (0x9D#8, fun w => .sta (.absx w.abs)),
  (0x99#8, fun w => .sta (.absy w.abs)), (0x81#8, fun w => .sta (.indx w.b1)),
  (0x91#8, fun w => .sta (.indy w.b1)),
  (0x86#8, fun w => .stx (.zp w.b1)), (0x96#8, fun w => .stx (.zpy w.b1)), (0x8E#8, fun w => .stx (.abs w.abs)),
  (0x84#8, fun w => .sty (.zp w.b1)), (0x94#8, fun w => .sty (.zpx w.b1)), (0x8C#8, fun w => .sty (.abs w.abs)),
  (0x64#8, fun w => .stz (.zp w.b1)), (0x74#8, fun w => .stz (.zpx w.b1)),
  (0x9C#8, fun w => .stz (.abs w.abs)), (0x9E#8, fun w => .stz (.absx w.abs)),
  (0xAA#8, fun _ => .tax), (0xA8#8, fun _ => .tay), (0x8A#8, fun _ => .txa),
  (0x98#8, fun _ => .tya), (0xBA#8, fun _ => .tsx), (0x9A#8, fun _ => .txs)]

/-- Rows of R132: add, subtract and logic. -/
def aluRows : List OpcodeRow := [
  (0x69#8, fun w => .adc (.imm w.b1)), (0x65#8, fun w => .adc (.mem (.zp w.b1))),
  (0x75#8, fun w => .adc (.mem (.zpx w.b1))), (0x6D#8, fun w => .adc (.mem (.abs w.abs))),
  (0x7D#8, fun w => .adc (.mem (.absx w.abs))), (0x79#8, fun w => .adc (.mem (.absy w.abs))),
  (0x61#8, fun w => .adc (.mem (.indx w.b1))), (0x71#8, fun w => .adc (.mem (.indy w.b1))),
  (0xE9#8, fun w => .sbc (.imm w.b1)), (0xE5#8, fun w => .sbc (.mem (.zp w.b1))),
  (0xF5#8, fun w => .sbc (.mem (.zpx w.b1))), (0xED#8, fun w => .sbc (.mem (.abs w.abs))),
  (0xFD#8, fun w => .sbc (.mem (.absx w.abs))), (0xF9#8, fun w => .sbc (.mem (.absy w.abs))),
  (0xE1#8, fun w => .sbc (.mem (.indx w.b1))), (0xF1#8, fun w => .sbc (.mem (.indy w.b1))),
  (0x29#8, fun w => .and (.imm w.b1)), (0x25#8, fun w => .and (.mem (.zp w.b1))),
  (0x35#8, fun w => .and (.mem (.zpx w.b1))), (0x2D#8, fun w => .and (.mem (.abs w.abs))),
  (0x3D#8, fun w => .and (.mem (.absx w.abs))), (0x39#8, fun w => .and (.mem (.absy w.abs))),
  (0x21#8, fun w => .and (.mem (.indx w.b1))), (0x31#8, fun w => .and (.mem (.indy w.b1))),
  (0x49#8, fun w => .eor (.imm w.b1)), (0x45#8, fun w => .eor (.mem (.zp w.b1))),
  (0x55#8, fun w => .eor (.mem (.zpx w.b1))), (0x4D#8, fun w => .eor (.mem (.abs w.abs))),
  (0x5D#8, fun w => .eor (.mem (.absx w.abs))), (0x59#8, fun w => .eor (.mem (.absy w.abs))),
  (0x41#8, fun w => .eor (.mem (.indx w.b1))), (0x51#8, fun w => .eor (.mem (.indy w.b1))),
  (0x09#8, fun w => .ora (.imm w.b1)), (0x05#8, fun w => .ora (.mem (.zp w.b1))),
  (0x15#8, fun w => .ora (.mem (.zpx w.b1))), (0x0D#8, fun w => .ora (.mem (.abs w.abs))),
  (0x1D#8, fun w => .ora (.mem (.absx w.abs))), (0x19#8, fun w => .ora (.mem (.absy w.abs))),
  (0x01#8, fun w => .ora (.mem (.indx w.b1))), (0x11#8, fun w => .ora (.mem (.indy w.b1)))]

/-- Rows of R132: BIT, compares, increments, shifts and rotates. -/
def compareModifyRows : List OpcodeRow := [
  (0x24#8, fun w => .bit (.zp w.b1)), (0x2C#8, fun w => .bit (.abs w.abs)),
  (0xC9#8, fun w => .cmp (.imm w.b1)), (0xC5#8, fun w => .cmp (.mem (.zp w.b1))),
  (0xD5#8, fun w => .cmp (.mem (.zpx w.b1))), (0xCD#8, fun w => .cmp (.mem (.abs w.abs))),
  (0xDD#8, fun w => .cmp (.mem (.absx w.abs))), (0xD9#8, fun w => .cmp (.mem (.absy w.abs))),
  (0xC1#8, fun w => .cmp (.mem (.indx w.b1))), (0xD1#8, fun w => .cmp (.mem (.indy w.b1))),
  (0xE0#8, fun w => .cpx (.imm w.b1)), (0xE4#8, fun w => .cpx (.mem (.zp w.b1))),
  (0xEC#8, fun w => .cpx (.mem (.abs w.abs))),
  (0xC0#8, fun w => .cpy (.imm w.b1)), (0xC4#8, fun w => .cpy (.mem (.zp w.b1))),
  (0xCC#8, fun w => .cpy (.mem (.abs w.abs))),
  (0xE6#8, fun w => .inc (.zp w.b1)), (0xF6#8, fun w => .inc (.zpx w.b1)),
  (0xEE#8, fun w => .inc (.abs w.abs)), (0xFE#8, fun w => .inc (.absx w.abs)),
  (0xC6#8, fun w => .dec (.zp w.b1)), (0xD6#8, fun w => .dec (.zpx w.b1)),
  (0xCE#8, fun w => .dec (.abs w.abs)), (0xDE#8, fun w => .dec (.absx w.abs)),
  (0xE8#8, fun _ => .inx), (0xC8#8, fun _ => .iny), (0xCA#8, fun _ => .dex), (0x88#8, fun _ => .dey),
  (0x0A#8, fun _ => .asl .acc), (0x06#8, fun w => .asl (.mem (.zp w.b1))),
  (0x16#8, fun w => .asl (.mem (.zpx w.b1))), (0x0E#8, fun w => .asl (.mem (.abs w.abs))),
  (0x1E#8, fun w => .asl (.mem (.absx w.abs))),
  (0x4A#8, fun _ => .lsr .acc), (0x46#8, fun w => .lsr (.mem (.zp w.b1))),
  (0x56#8, fun w => .lsr (.mem (.zpx w.b1))), (0x4E#8, fun w => .lsr (.mem (.abs w.abs))),
  (0x5E#8, fun w => .lsr (.mem (.absx w.abs))),
  (0x2A#8, fun _ => .rol .acc), (0x26#8, fun w => .rol (.mem (.zp w.b1))),
  (0x36#8, fun w => .rol (.mem (.zpx w.b1))), (0x2E#8, fun w => .rol (.mem (.abs w.abs))),
  (0x3E#8, fun w => .rol (.mem (.absx w.abs))),
  (0x6A#8, fun _ => .ror .acc), (0x66#8, fun w => .ror (.mem (.zp w.b1))),
  (0x76#8, fun w => .ror (.mem (.zpx w.b1))), (0x6E#8, fun w => .ror (.mem (.abs w.abs))),
  (0x7E#8, fun w => .ror (.mem (.absx w.abs)))]

/-- Rows of R132: branches, jumps, BRK, NOP, stack and flag instructions. BRK = 0x00 is the source's own byte. -/
def controlRows : List OpcodeRow := [
  (0x10#8, fun w => .bpl w.b1), (0x30#8, fun w => .bmi w.b1), (0x50#8, fun w => .bvc w.b1),
  (0x70#8, fun w => .bvs w.b1), (0x90#8, fun w => .bcc w.b1), (0xB0#8, fun w => .bcs w.b1),
  (0xD0#8, fun w => .bne w.b1), (0xF0#8, fun w => .beq w.b1), (0x80#8, fun w => .bra w.b1),
  (0x4C#8, fun w => .jmpAbs w.abs), (0x6C#8, fun w => .jmpInd w.abs), (0x20#8, fun w => .jsr w.abs),
  (0x60#8, fun _ => .rts), (0x40#8, fun _ => .rti), (0x00#8, fun _ => .brk), (0xEA#8, fun _ => .nop),
  (0x48#8, fun _ => .pha), (0x08#8, fun _ => .php), (0x68#8, fun _ => .pla), (0x28#8, fun _ => .plp),
  (0x18#8, fun _ => .clc), (0x38#8, fun _ => .sec), (0x58#8, fun _ => .cli), (0x78#8, fun _ => .sei),
  (0xB8#8, fun _ => .clv), (0xD8#8, fun _ => .cld), (0xF8#8, fun _ => .sed)]

/-- The 156 rows of R132: 151 standard opcodes and the 5 gated 65C02 opcodes. -/
def standardTable : List OpcodeRow := loadStoreRows ++ aluRows ++ compareModifyRows ++ controlRows

/-- The family whose opcode byte this is (R134, R145). -/
def ExtOpcodes.family? (e : ExtOpcodes) (b : Byte) : Option Family :=
  if b = e.xtop1 then some .xtop1
  else if b = e.xtop2 then some .xtop2
  else if b = e.xtop3 then some .xtop3
  else if b = e.xtop1Trx then some .xtop1Trx
  else if b = e.xtop1Math then some .xtop1Math
  else if b = e.xtop2Math then some .xtop2Math
  else if b = e.xtop3Math then some .xtop3Math
  else if b = e.xtop1Stor then some .xtop1Stor
  else if b = e.xtop2Stor then some .xtop2Stor
  else if b = e.xtop3Stor then some .xtop3Stor
  else none

/-- Sub-byte bits 7:6: `op` of R137, `m` of R140. -/
def subTop (b : Byte) : BitVec 2 := b.extractLsb' 6 2

/-- Sub-byte bits 5:3: `d` of R137 and R138, `r` of R139, `i` of R140. -/
def subMid (b : Byte) : RegField := b.extractLsb' 3 3

/-- Sub-byte bits 2:0: `s` of R137, R138 and R140, `g` of R139. -/
def subLow (b : Byte) : RegField := b.extractLsb' 0 3

/-- XTOP1 (R137, R360): op 0 MOV/NOT, op 1 SEGX, ops 2 and 3 illegal. -/
def decodeXtop1 (b : Byte) : Instr :=
  if subTop b = 0 then .movNotB (subMid b) (subLow b)
  else if subTop b = 1 then .segxB (b.extractLsb' 0 6)
  else .illegalXtop1 (b.extractLsb' 0 7)

/-- XTOP2 (R137, R360): op 0 MOV/NOT, op 1 AND, op 2 XOR, op 3 OR. -/
def decodeXtop2 (b : Byte) : Instr :=
  if subTop b = 0 then .movNotW (subMid b) (subLow b)
  else if subTop b = 1 then .andW (subMid b) (subLow b)
  else if subTop b = 2 then .xorW (subMid b) (subLow b)
  else .orW (subMid b) (subLow b)

/-- XTOP3 (R137, R360): op 0 MOV/NOT, op 1 AND, op 2 XOR, op 3 OR. -/
def decodeXtop3 (b : Byte) : Instr :=
  if subTop b = 0 then .movNotL (subMid b) (subLow b)
  else if subTop b = 1 then .andL (subMid b) (subLow b)
  else if subTop b = 2 then .xorL (subMid b) (subLow b)
  else .orL (subMid b) (subLow b)

/-- The segment selector of a TRX field g (R39, R139); none for 3 to 7. -/
def segOf (g : BitVec 3) : Option SegReg :=
  if g = 0 then some .ps else if g = 1 then some .ds else if g = 2 then some .ss else none

/-- XTOP1_TRX (R139, R375): the reserved bit is looked at first, then the selector, then the direction. -/
def decodeTrx (b : Byte) : Instr :=
  if b.getLsbD 7 then .refusedTrx (b.extractLsb' 0 7)
  else match segOf (subLow b) with
    | none => .illegalTrx (b.extractLsb' 3 4) (subLow b)
    | some g => if b.getLsbD 6 then .movsFromSeg (subMid b) g else .movsToSeg g (subMid b)

/-- The MATH constant (R138, R142): present when k = b[7] is 1. -/
def mathConst {α : Type} (b : Byte) (k : α) : Option α := if b.getLsbD 7 then some k else none

/-- XTOP1_MATH (R138): op-flag 0 adds, 1 subtracts; a 1-byte constant when k = 1. -/
def decodeMath1 (w : Window) : Instr :=
  if w.b1.getLsbD 6 then .subB (subMid w.b1) (subLow w.b1) (mathConst w.b1 w.b2)
  else .addB (subMid w.b1) (subLow w.b1) (mathConst w.b1 w.b2)

/-- XTOP2_MATH (R138): a 2-byte little-endian constant when k = 1. -/
def decodeMath2 (w : Window) : Instr :=
  if w.b1.getLsbD 6 then .subW (subMid w.b1) (subLow w.b1) (mathConst w.b1 (w.b3 ++ w.b2))
  else .addW (subMid w.b1) (subLow w.b1) (mathConst w.b1 (w.b3 ++ w.b2))

/-- XTOP3_MATH (R138): a 4-byte little-endian constant when k = 1. -/
def decodeMath3 (w : Window) : Instr :=
  if w.b1.getLsbD 6 then .subL (subMid w.b1) (subLow w.b1) (mathConst w.b1 ((w.b5 ++ w.b4) ++ (w.b3 ++ w.b2)))
  else .addL (subMid w.b1) (subLow w.b1) (mathConst w.b1 ((w.b5 ++ w.b4) ++ (w.b3 ++ w.b2)))

/-- The STOR addressing mode and its operand bytes (R140, R142). -/
def decodeStoreMode (w : Window) : StoreMode :=
  if subTop w.b1 = 0 then .zp w.b2
  else if subTop w.b1 = 1 then .abs (Machine.half w.b3 w.b2)
  else if subTop w.b1 = 2 then .far (Machine.half w.b3 w.b2) w.b4
  else .stack w.b2

/-- A family's sub-decoder (R136 to R144). -/
def decodeExt (f : Family) (w : Window) : Instr :=
  match f with
  | .xtop1 => decodeXtop1 w.b1
  | .xtop2 => decodeXtop2 w.b1
  | .xtop3 => decodeXtop3 w.b1
  | .xtop1Trx => decodeTrx w.b1
  | .xtop1Math => decodeMath1 w
  | .xtop2Math => decodeMath2 w
  | .xtop3Math => decodeMath3 w
  | .xtop1Stor => .stB (subLow w.b1) (subMid w.b1) (decodeStoreMode w)
  | .xtop2Stor => .stW (subLow w.b1) (subMid w.b1) (decodeStoreMode w)
  | .xtop3Stor => .stL (subLow w.b1) (subMid w.b1) (decodeStoreMode w)

/-- The standard or 65C02 instruction a window starts with, if its first byte is in R132. -/
def decodeStandard (w : Window) : Option Instr := (standardTable.lookup w.b0).map (fun mk => mk w)

/-- The top-level decode of R134, less its gates: the standard table, then the extension bytes, then nothing. -/
def decode (e : ExtOpcodes) (w : Window) : Decoded :=
  match decodeStandard w with
  | some i => .instr i
  | none =>
    match e.family? w.b0 with
    | some f => .instr (decodeExt f w)
    | none => .illegalOpcode w.b0

/-! ## The encoder -/

/-- The operand bytes of a memory mode, low byte first (R122). -/
def MemMode.bytes : MemMode → List Byte
  | .zp z | .zpx z | .zpy z | .indx z | .indy z => [z]
  | .abs a | .absx a | .absy a => [Machine.lo8 a, Machine.hi8 a]

/-- The operand bytes of a read operand (R122). -/
def Operand.bytes : Operand → List Byte
  | .imm v => [v]
  | .mem m => m.bytes

/-- The operand bytes of a shift target (R122). -/
def ShiftTarget.bytes : ShiftTarget → List Byte
  | .acc => []
  | .mem m => m.bytes

/-- An opcode for each of the eight modes of an "Encoding" line of R200, R240 to R247 (in that line's order: imm, zp,
zpx, abs, absx, absy, indx, indy). -/
def aluCode (imm zp zpx abs absx absy indx indy : Byte) : Form → Option Byte
  | .imm => some imm
  | .zp => some zp
  | .zpx => some zpx
  | .abs => some abs
  | .absx => some absx
  | .absy => some absy
  | .indx => some indx
  | .indy => some indy
  | .acc | .zpy => none

/-- An opcode for each mode of an "Encoding" line of R250, R251, R213, R260 to R263 (zp, zpx, abs, absx; acc where the
instruction has it). -/
def modifyCode (acc : Option Byte) (zp zpx abs absx : Byte) : Form → Option Byte
  | .acc => acc
  | .zp => some zp
  | .zpx => some zpx
  | .abs => some abs
  | .absx => some absx
  | .imm | .zpy | .absy | .indx | .indy => none

/-- The opcode byte of a standard or 65C02 instruction; none for an ill-formed one and for the extension. -/
def Instr.opcode? : Instr → Option Byte
  | .lda o => aluCode 0xA9 0xA5 0xB5 0xAD 0xBD 0xB9 0xA1 0xB1 o.form
  | .ldx o => match o.form with
    | .imm => some 0xA2 | .zp => some 0xA6 | .zpy => some 0xB6 | .abs => some 0xAE | .absy => some 0xBE | _ => none
  | .ldy o => match o.form with
    | .imm => some 0xA0 | .zp => some 0xA4 | .zpx => some 0xB4 | .abs => some 0xAC | .absx => some 0xBC | _ => none
  | .sta m => match m.form with
    | .zp => some 0x85 | .zpx => some 0x95 | .abs => some 0x8D | .absx => some 0x9D | .absy => some 0x99
    | .indx => some 0x81 | .indy => some 0x91 | _ => none
  | .stx m => match m.form with
    | .zp => some 0x86 | .zpy => some 0x96 | .abs => some 0x8E | _ => none
  | .sty m => match m.form with
    | .zp => some 0x84 | .zpx => some 0x94 | .abs => some 0x8C | _ => none
  | .stz m => modifyCode none 0x64 0x74 0x9C 0x9E m.form
  | .tax => some 0xAA
  | .tay => some 0xA8
  | .txa => some 0x8A
  | .tya => some 0x98
  | .tsx => some 0xBA
  | .txs => some 0x9A
  | .adc o => aluCode 0x69 0x65 0x75 0x6D 0x7D 0x79 0x61 0x71 o.form
  | .sbc o => aluCode 0xE9 0xE5 0xF5 0xED 0xFD 0xF9 0xE1 0xF1 o.form
  | .and o => aluCode 0x29 0x25 0x35 0x2D 0x3D 0x39 0x21 0x31 o.form
  | .eor o => aluCode 0x49 0x45 0x55 0x4D 0x5D 0x59 0x41 0x51 o.form
  | .ora o => aluCode 0x09 0x05 0x15 0x0D 0x1D 0x19 0x01 0x11 o.form
  | .bit m => match m.form with
    | .zp => some 0x24 | .abs => some 0x2C | _ => none
  | .cmp o => aluCode 0xC9 0xC5 0xD5 0xCD 0xDD 0xD9 0xC1 0xD1 o.form
  | .cpx o => match o.form with
    | .imm => some 0xE0 | .zp => some 0xE4 | .abs => some 0xEC | _ => none
  | .cpy o => match o.form with
    | .imm => some 0xC0 | .zp => some 0xC4 | .abs => some 0xCC | _ => none
  | .inc m => modifyCode none 0xE6 0xF6 0xEE 0xFE m.form
  | .dec m => modifyCode none 0xC6 0xD6 0xCE 0xDE m.form
  | .inx => some 0xE8
  | .iny => some 0xC8
  | .dex => some 0xCA
  | .dey => some 0x88
  | .asl t => modifyCode (some 0x0A) 0x06 0x16 0x0E 0x1E t.form
  | .lsr t => modifyCode (some 0x4A) 0x46 0x56 0x4E 0x5E t.form
  | .rol t => modifyCode (some 0x2A) 0x26 0x36 0x2E 0x3E t.form
  | .ror t => modifyCode (some 0x6A) 0x66 0x76 0x6E 0x7E t.form
  | .bpl _ => some 0x10
  | .bmi _ => some 0x30
  | .bvc _ => some 0x50
  | .bvs _ => some 0x70
  | .bcc _ => some 0x90
  | .bcs _ => some 0xB0
  | .bne _ => some 0xD0
  | .beq _ => some 0xF0
  | .bra _ => some 0x80
  | .jmpAbs _ => some 0x4C
  | .jmpInd _ => some 0x6C
  | .jsr _ => some 0x20
  | .rts => some 0x60
  | .rti => some 0x40
  | .brk => some 0x00
  | .nop => some 0xEA
  | .pha => some 0x48
  | .php => some 0x08
  | .pla => some 0x68
  | .plp => some 0x28
  | .clc => some 0x18
  | .sec => some 0x38
  | .cli => some 0x58
  | .sei => some 0x78
  | .clv => some 0xB8
  | .cld => some 0xD8
  | .sed => some 0xF8
  | .movNotB _ _ | .segxB _ | .illegalXtop1 _ => none
  | .movNotW _ _ | .andW _ _ | .xorW _ _ | .orW _ _ => none
  | .movNotL _ _ | .andL _ _ | .xorL _ _ | .orL _ _ => none
  | .movsToSeg _ _ | .movsFromSeg _ _ | .illegalTrx _ _ | .refusedTrx _ => none
  | .addB _ _ _ | .subB _ _ _ | .addW _ _ _ | .subW _ _ _ | .addL _ _ _ | .subL _ _ _ => none
  | .stB _ _ _ | .stW _ _ _ | .stL _ _ _ => none

/-- A sub-byte from its three fields: bits 7:6, 5:3 and 2:0 (R137, R138, R140). -/
def subByte (top : BitVec 2) (mid low : BitVec 3) : Byte := top ++ mid ++ low

/-- The TRX number of a segment selector (R39). -/
def SegReg.number : SegReg → BitVec 3
  | .ps => 0
  | .ds => 1
  | .ss => 2

/-- The number m of a STOR addressing mode (R140). -/
def StoreMode.number : StoreMode → BitVec 2
  | .zp _ => 0
  | .abs _ => 1
  | .far _ _ => 2
  | .stack _ => 3

/-- The operand bytes of a STOR addressing mode (R140). -/
def StoreMode.bytes : StoreMode → List Byte
  | .zp zz => [zz]
  | .abs a => [Machine.lo8 a, Machine.hi8 a]
  | .far a seg => [Machine.lo8 a, Machine.hi8 a, seg]
  | .stack dd => [dd]

/-- The top two bits of a MATH sub-byte: the constant flag and the op-flag (R138). -/
def mathTop (constant subtract : Bool) : BitVec 2 := BitVec.ofBool constant ++ BitVec.ofBool subtract

/-- The family and the sub-byte of an extension instruction (R136 to R140); none for the others. -/
def Instr.extension? : Instr → Option (Family × Byte)
  | .movNotB d s => some (.xtop1, subByte 0 d s)
  | .segxB x => some (.xtop1, 1#2 ++ x)
  | .illegalXtop1 x => some (.xtop1, 1#1 ++ x)
  | .movNotW d s => some (.xtop2, subByte 0 d s)
  | .andW d s => some (.xtop2, subByte 1 d s)
  | .xorW d s => some (.xtop2, subByte 2 d s)
  | .orW d s => some (.xtop2, subByte 3 d s)
  | .movNotL d s => some (.xtop3, subByte 0 d s)
  | .andL d s => some (.xtop3, subByte 1 d s)
  | .xorL d s => some (.xtop3, subByte 2 d s)
  | .orL d s => some (.xtop3, subByte 3 d s)
  | .movsToSeg g r => some (.xtop1Trx, subByte 0 r g.number)
  | .movsFromSeg r g => some (.xtop1Trx, subByte 1 r g.number)
  | .illegalTrx x g => if 3 ≤ g.toNat then some (.xtop1Trx, 0#1 ++ x ++ g) else none
  | .refusedTrx x => some (.xtop1Trx, 1#1 ++ x)
  | .addB d s k => some (.xtop1Math, subByte (mathTop k.isSome false) d s)
  | .subB d s k => some (.xtop1Math, subByte (mathTop k.isSome true) d s)
  | .addW d s k => some (.xtop2Math, subByte (mathTop k.isSome false) d s)
  | .subW d s k => some (.xtop2Math, subByte (mathTop k.isSome true) d s)
  | .addL d s k => some (.xtop3Math, subByte (mathTop k.isSome false) d s)
  | .subL d s k => some (.xtop3Math, subByte (mathTop k.isSome true) d s)
  | .stB s i m => some (.xtop1Stor, subByte m.number i s)
  | .stW s i m => some (.xtop2Stor, subByte m.number i s)
  | .stL s i m => some (.xtop3Stor, subByte m.number i s)
  | .lda _ | .ldx _ | .ldy _ | .sta _ | .stx _ | .sty _ | .stz _ => none
  | .tax | .tay | .txa | .tya | .tsx | .txs => none
  | .adc _ | .sbc _ | .and _ | .eor _ | .ora _ | .bit _ | .cmp _ | .cpx _ | .cpy _ | .inc _ | .dec _ => none
  | .inx | .iny | .dex | .dey => none
  | .asl _ | .lsr _ | .rol _ | .ror _ => none
  | .bpl _ | .bmi _ | .bvc _ | .bvs _ | .bcc _ | .bcs _ | .bne _ | .beq _ | .bra _ => none
  | .jmpAbs _ | .jmpInd _ | .jsr _ | .rts | .rti | .brk | .nop => none
  | .pha | .php | .pla | .plp | .clc | .sec | .cli | .sei | .clv | .cld | .sed => none

/-- The first `n` bytes of a constant, least significant first (R142). -/
def leBytes {w : Nat} (n : Nat) (v : BitVec w) : List Byte :=
  (List.range n).map (fun k => v.extractLsb' (8 * k) 8)

/-- The bytes after the opcode (standard) or after the sub-byte (extension). -/
def Instr.operandBytes : Instr → List Byte
  | .lda o | .ldx o | .ldy o | .adc o | .sbc o | .and o | .eor o | .ora o | .cmp o | .cpx o | .cpy o => o.bytes
  | .sta m | .stx m | .sty m | .stz m | .bit m | .inc m | .dec m => m.bytes
  | .asl t | .lsr t | .rol t | .ror t => t.bytes
  | .bpl r | .bmi r | .bvc r | .bvs r | .bcc r | .bcs r | .bne r | .beq r | .bra r => [r]
  | .jmpAbs a | .jmpInd a | .jsr a => [Machine.lo8 a, Machine.hi8 a]
  | .addB _ _ k | .subB _ _ k => k.elim [] (leBytes 1)
  | .addW _ _ k | .subW _ _ k => k.elim [] (leBytes 2)
  | .addL _ _ k | .subL _ _ k => k.elim [] (leBytes 4)
  | .stB _ _ m | .stW _ _ m | .stL _ _ m => m.bytes
  | .tax | .tay | .txa | .tya | .tsx | .txs | .inx | .iny | .dex | .dey => []
  | .rts | .rti | .brk | .nop => []
  | .pha | .php | .pla | .plp | .clc | .sec | .cli | .sei | .clv | .cld | .sed => []
  | .movNotB _ _ | .segxB _ | .illegalXtop1 _ => []
  | .movNotW _ _ | .andW _ _ | .xorW _ _ | .orW _ _ => []
  | .movNotL _ _ | .andL _ _ | .xorL _ _ | .orL _ _ => []
  | .movsToSeg _ _ | .movsFromSeg _ _ | .illegalTrx _ _ | .refusedTrx _ => []

/-- The bytes of a well-formed instruction, lowest offset first; no bytes for an ill-formed one. -/
def encode (e : ExtOpcodes) (i : Instr) : List Byte :=
  match i.opcode? with
  | some op => op :: i.operandBytes
  | none =>
    match i.extension? with
    | some (f, sub) => e.byte f :: sub :: i.operandBytes
    | none => []

/-! ## The opcode table's numbering -/

/-- The low `nbits` bits of w as six bytes, the first at the lowest offset. A table row of 16 bits is an extension
row, and the table numbers its family byte, the FIRST byte, as bits 15:8; every other row has its first byte in
bits 7:0 (note 12). -/
def tableBytes (e : ExtOpcodes) (nbits w : Nat) : List Byte :=
  let v := w % 2 ^ nbits
  let byte (k : Nat) : Byte := BitVec.ofNat 8 (v / 256 ^ k)
  if nbits = 16 ∧ (e.family? (byte 1)).isSome then [byte 1, byte 0, 0, 0, 0, 0]
  else [byte 0, byte 1, byte 2, byte 3, byte 4, byte 5]

/-- The instruction the decoder reads from a table word (the host's question; note 12). -/
def decodeTableWord (nbits w : Nat) : Option Instr :=
  match decode Config.extOpcode (Window.ofList (tableBytes Config.extOpcode nbits w)) with
  | .instr i => some i
  | .illegalOpcode _ => none

end Sys2Proof
end

