-- ==== Sys2Proof/Machine/State.lean ====
section
/-! DEFINITION. The state of the core (10_state.md), as plain data, and State.reset. -/

namespace Sys2Proof.Machine

/-- The seven stored status flags (R40). There is no bit 5. -/
structure Flags where
  n : Bool
  v : Bool
  b : Bool
  d : Bool
  i : Bool
  z : Bool
  c : Bool
deriving DecidableEq, Repr

/-- The processor state (R44). -/
inductive RunState
  | reset | halt | normal
deriving DecidableEq, Repr

/-- The causes of an illegal instruction (R450). -/
inductive IllegalCause
  /-- ILLEGAL_OPCODE: unknown byte or failed gate -/
  | opcode
  /-- ILLEGAL_SUBOP: unrecognised extension sub-byte -/
  | subop
deriving DecidableEq, Repr

/-- The diagnostic record (R455): cause, PS and PC at the opcode fetch, and the one or two bytes. No rule reads it. -/
structure IllegalRecord where
  cause : IllegalCause
  seg : Byte
  pc : Half
  bytes : List Byte
deriving DecidableEq, Repr

/-- Memory: the bytes that are not 0, by address segment * 65536 + offset, addresses strictly rising. An address that
is not listed reads 0 (R81). -/
abbrev Memory := List Host.Cell

/-- What an unlisted address reads as: memory is zero at construction (R81). -/
abbrev Memory.unlisted : Byte := 0

/-- The canonical form from address `lo` on: addresses rise strictly, stay inside the 256 segments, and no entry
holds what an unlisted address reads as. -/
def Memory.wfFrom (lo : Nat) : Memory → Bool
  | [] => true
  | (a, v) :: m => decide (lo ≤ a) && decide (a < 16777216) && decide (v ≠ Memory.unlisted) && Memory.wfFrom (a + 1) m

/-- The canonical form of a memory. -/
def Memory.wf (m : Memory) : Bool := Memory.wfFrom 0 m

/-- Why the machine stops with a fault. The core has no such behaviour: memory accesses cannot fail, there is no
alignment or arithmetic fault, and an illegal instruction is resolved by its policy (R450, R453; note 17). So there
is no constructor, and no step faults. -/
inductive Fault
deriving DecidableEq, Repr

/-- Why the model gives a step no meaning. -/
inductive Refusal
  /-- Raised by an arm of `exec` whose instruction has no meaning yet. Safe: the model says nothing about it. -/
  | notModelled (mnemonic : String)
  /-- Raised by the XTOP1_TRX encodings whose reserved bit 7 is set, when the gate is open (R375, R469 case 1, D9).
  Safe: the source gives no behaviour, and a refused state is final for proofs. -/
  | trxReservedBit
deriving DecidableEq, Repr

/-- The state of the core: R30's record, the optional diagnostic record of R455, and the model's own fields
(`config`, `params`, `resetDraws`), which the spec makes arguments of the step or draws. -/
structure State where
  /-- GPR[0..7] (R31) -/
  gpr : Vector Slot 8
  /-- PC (R37) -/
  pc : Half
  /-- SP (R38) -/
  sp : Half
  /-- PS (R39) -/
  ps : Byte
  /-- DS (R39) -/
  ds : Byte
  /-- SS (R39) -/
  ss : Byte
  /-- N V B D I Z C (R40) -/
  flags : Flags
  /-- state (R44) -/
  run : RunState
  /-- cycles (R45) -/
  cycles : Nat
  /-- mem (R80) -/
  mem : Memory
  /-- lastIllegal (R455) -/
  lastIllegal : Option IllegalRecord
  /-- the configuration record (R6); no step writes it (note 1) -/
  config : Configuration
  /-- the parameters of R8 that are data; no step writes them (notes 2, 4, 6) -/
  params : Params
  /-- how many draws of RESET_SP have been made (R500; note 5) -/
  resetDraws : Nat
deriving DecidableEq, Repr

/-- All seven flags 0 (R40). -/
def Flags.clear : Flags :=
  { n := false, v := false, b := false, d := false, i := false, z := false, c := false }

/-- The machine right after reset() in a freshly constructed memory (R48, R501): PC is the vector at (0, 0xFFFC),
which is 0 there. SP, cycles, the configuration and the parameters are the model's (notes 1, 2, 4, 5, 6, 8). -/
def State.reset : State :=
  { gpr := Vector.replicate 8 0
    pc := 0
    sp := 0x01FF
    ps := 0
    ds := 0
    ss := 0
    flags := Flags.clear
    run := .normal
    cycles := 0
    mem := []
    lastIllegal := none
    config := Config.configuration
    params := Config.params
    resetDraws := 0 }

end Sys2Proof.Machine
end

