-- ==== Sys2Proof/Machine/Flags.lean ====
section
/-! DEFINITION. Every flag computation of the spec: the flag byte (R41, R42), the flag primitive (R235), N and Z of a
result (R195), and the results and flags of the adds, subtracts, compares, shifts and rotates. -/

namespace Sys2Proof.Machine

/-- `PackP()` (R41): N V 1 B D I Z C. -/
def Flags.pack (f : Flags) : Byte :=
  BitVec.ofBool f.n ++ BitVec.ofBool f.v ++ 1#1 ++ BitVec.ofBool f.b ++ BitVec.ofBool f.d ++ BitVec.ofBool f.i ++
    BitVec.ofBool f.z ++ BitVec.ofBool f.c

/-- `UnpackP(b)` (R42): bit 5 is ignored. -/
def Flags.unpack (b : Byte) : Flags :=
  { n := b.getLsbD 7, v := b.getLsbD 6, b := b.getLsbD 4, d := b.getLsbD 3, i := b.getLsbD 2, z := b.getLsbD 1,
    c := b.getLsbD 0 }

/-- `SetNZ8(v)` (R195), at any width: N is the top bit, Z says the value is 0. -/
def Flags.setNZ {w : Nat} (f : Flags) (v : BitVec w) : Flags := { f with n := v.msb, z := decide (v = 0) }

/-- The flags `set_flags` is asked to change (R235). -/
structure FlagSelection where
  n : Bool
  z : Bool
  c : Bool
  v : Bool
deriving DecidableEq, Repr

/-- The operand widths of R235 and of the extension families. No other width can be given (R469, case 3). -/
inductive Width
  | w8 | w16 | w32
deriving DecidableEq, Repr

/-- The number of bits of a width. -/
def Width.bits : Width → Nat
  | .w8 => 8
  | .w16 => 16
  | .w32 => 32

/-- The source's primitive `set_flags(selected_flags, operand_width, result, compare_baseline)` (R235). The
instruction rules state their flags directly and do not call it. -/
def Flags.setFlags (f : Flags) (sel : FlagSelection) (w : Width) (result baseline : Nat) : Flags :=
  let r : BitVec w.bits := BitVec.ofNat w.bits result
  { f with
    n := if sel.n then r.msb else f.n
    z := if sel.z then decide (r = 0) else f.z
    c := if sel.c then decide (result < baseline) else f.c
    v := if sel.v then false else f.v }

/-- ADC with D = 0 (R240): the sum is exact, then narrowed. -/
def adcBinary (a m : Byte) (c : Bool) : ArithResult :=
  let s := a.toNat + m.toNat + c.toNat
  let r : Byte := BitVec.ofNat 8 s
  { value := r, c := decide (0x100 ≤ s), z := decide (r = 0), n := r.msb }

/-- SBC with D = 0 (R241): the borrow is the complement of C. -/
def sbcBinary (a m : Byte) (c : Bool) : ArithResult :=
  let s : Int := (a.toNat : Int) - (m.toNat : Int) - (1 - (c.toNat : Int))
  let r : Byte := BitVec.ofInt 8 s
  { value := r, c := decide (0 ≤ s), z := decide (r = 0), n := r.msb }

/-- ADC (R240, R242): binary when D = 0, `DECIMAL_ARITH` when D = 1. -/
def adcResult (f : Flags) (a m : Byte) : ArithResult :=
  if f.d then Config.decimalArith .adc a m f.c else adcBinary a m f.c

/-- SBC (R241, R242): binary when D = 0, `DECIMAL_ARITH` when D = 1. -/
def sbcResult (f : Flags) (a m : Byte) : ArithResult :=
  if f.d then Config.decimalArith .sbc a m f.c else sbcBinary a m f.c

/-- The flags after ADC or SBC: C, Z and N of the result, and V = 0 (R236). -/
def Flags.setArith (f : Flags) (r : ArithResult) : Flags := { f with c := r.c, z := r.z, n := r.n, v := false }

/-- The flags after BIT (R246): Z from A and M, N and V from M bits 7 and 6. -/
def Flags.setBit (f : Flags) (a m : Byte) : Flags :=
  { f with z := decide (a &&& m = 0), n := m.getLsbD 7, v := m.getLsbD 6 }

/-- The flags after a compare of r with m (R247, R248, R249): C = (r >= m), Z = (r = m), N of the difference. -/
def Flags.setCompare (f : Flags) (r m : Byte) : Flags :=
  { f with c := decide (m.toNat ≤ r.toNat), z := decide (r = m), n := (r - m).msb }

/-- What a shift or rotate computes: the byte and the carry out. -/
structure ShiftResult where
  value : Byte
  c : Bool
deriving DecidableEq, Repr

/-- ASL (R260). The carry in is not read. -/
def aslResult (v : Byte) (_c : Bool) : ShiftResult := { value := v <<< 1, c := v.getLsbD 7 }

/-- LSR (R261). The carry in is not read. -/
def lsrResult (v : Byte) (_c : Bool) : ShiftResult := { value := v >>> 1, c := v.getLsbD 0 }

/-- ROL (R262): the old carry enters at bit 0. -/
def rolResult (v : Byte) (c : Bool) : ShiftResult :=
  { value := (v <<< 1) ||| (BitVec.ofBool c).setWidth 8, c := v.getLsbD 7 }

/-- ROR (R263): the old carry enters at bit 7. -/
def rorResult (v : Byte) (c : Bool) : ShiftResult :=
  { value := ((BitVec.ofBool c).setWidth 8 <<< 7) ||| (v >>> 1), c := v.getLsbD 0 }

/-- The flags after a shift or rotate: C out, N and Z of the result. -/
def Flags.setShift (f : Flags) (r : ShiftResult) : Flags := ({ f with c := r.c } : Flags).setNZ r.value

/-- What a MATH instruction computes (R390): the narrowed value and the carry. -/
structure MathResult (w : Nat) where
  value : BitVec w
  c : Bool
deriving DecidableEq, Repr

/-- MATH add (R390): t = d + S' + K exactly; C says t reached 2^w. -/
def mathAdd {w : Nat} (d s k : BitVec w) : MathResult w :=
  let t := d.toNat + s.toNat + k.toNat
  { value := BitVec.ofNat w t, c := decide (2 ^ w ≤ t) }

/-- MATH subtract (R390): t = d - S' - K exactly; C says there was no borrow. -/
def mathSub {w : Nat} (d s k : BitVec w) : MathResult w :=
  let t : Int := (d.toNat : Int) - (s.toNat : Int) - (k.toNat : Int)
  { value := BitVec.ofInt w t, c := decide (0 ≤ t) }

/-- The flags after a MATH instruction (R390): C, Z and N at the family's width, V = 0. -/
def Flags.setMath {w : Nat} (f : Flags) (r : MathResult w) : Flags :=
  { f with c := r.c, z := decide (r.value = 0), n := r.value.msb, v := false }

end Sys2Proof.Machine
end

