-- ==== Sys2Proof/Machine/Memory.lean ====
section
/-! DEFINITION. Memory as (segment, offset) bytes (20_memory.md). -/

namespace Sys2Proof.Machine

/-- The key of the address (g, o) (R80): segments do not overlap and offsets never carry into them. -/
def addr (g : Byte) (o : Half) : Nat := g.toNat * 65536 + o.toNat

/-- The byte at an address; an unlisted address reads 0 (R81). -/
def Memory.read : Memory → Nat → Byte
  | [], _ => Memory.unlisted
  | (a, v) :: m, x => if x = a then v else Memory.read m x

/-- Replaces the byte at an address, keeping the canonical form: writing 0 removes the entry. -/
def Memory.write : Memory → Nat → Byte → Memory
  | [], x, v => if v = Memory.unlisted then [] else [(x, v)]
  | (a, u) :: m, x, v =>
    if x < a then (if v = Memory.unlisted then (a, u) :: m else (x, v) :: (a, u) :: m)
    else if x = a then (if v = Memory.unlisted then m else (x, v) :: m)
    else (a, u) :: Memory.write m x v

/-- `MemRead((g, o), 1)` (R82). A read changes nothing. -/
def State.readByte (s : State) (g : Byte) (o : Half) : Byte := s.mem.read (addr g o)

/-- `MemWrite((g, o), 1, v)` (R82): exactly one byte, unconditional. -/
def State.writeByte (s : State) (g : Byte) (o : Half) (v : Byte) : State :=
  { s with mem := s.mem.write (addr g o) v }

/-- `MemRead((g, o), n)` (R83): little-endian, the offset wraps inside the segment. -/
def State.readLE (s : State) (g : Byte) (o : Half) : Nat → Nat
  | 0 => 0
  | n + 1 => (s.readByte g o).toNat + 256 * s.readLE g (o + 1) n

/-- `MemWrite((g, o), n, v)` (R83): n byte writes, least significant first, at offsets that wrap inside the segment. -/
def State.writeLE {w : Nat} (s : State) (g : Byte) (o : Half) : Nat → BitVec w → State
  | 0, _ => s
  | n + 1, v => (s.writeByte g o (v.setWidth 8)).writeLE g (o + 1) n (v >>> 8)

/-- `MemRead((g, o), 2)` as a 16-bit value: the vectors (R84). -/
def State.readWord (s : State) (g : Byte) (o : Half) : Half := half (s.readByte g (o + 1)) (s.readByte g o)

end Sys2Proof.Machine
end

