-- ==== Sys2Proof/Machine/Ops.lean ====
section
/-! DEFINITION. The named operations on the state that the meanings share: register views, PC, stack, the one
operation that takes an illegal-instruction exception, the BRK trap entry and its return. -/

namespace Sys2Proof.Machine

/-! ## Registers -/

/-- The slot a selector of width w names (R31, R32, R33): there are 32/w views in a slot. -/
def slotOf (w n : Nat) : Fin 8 := Fin.ofNat 8 (n / (32 / w))

/-- The place of the view in its slot (R31, R32). -/
def laneOf (w n : Nat) : Nat := n % (32 / w)

/-- `Rw[n]`: the view of width w with selector n (R31, R32, R33). -/
def State.view (s : State) (w n : Nat) : BitVec w := getLane w (s.gpr.get (slotOf w n)) (laneOf w n)

/-- `Rw[n] <- v`: writes that view and keeps every other bit of the slot (R31, R32, R33). -/
def State.setView {w : Nat} (s : State) (n : Nat) (v : BitVec w) : State :=
  { s with gpr := s.gpr.set (slotOf w n) (setLane (s.gpr.get (slotOf w n)) (laneOf w n) v) }

/-- The accumulator, `R8[1]` (R34). -/
def State.a (s : State) : Byte := s.view 8 1

/-- X, `R8[3]` (R34). -/
def State.x (s : State) : Byte := s.view 8 3

/-- Y, `R8[5]` (R34). -/
def State.y (s : State) : Byte := s.view 8 5

/-- PC past `n` fetched bytes, wrapping inside PS (R121). -/
def State.advance (s : State) (n : Nat) : State := { s with pc := s.pc + BitVec.ofNat 16 n }

/-- `PC <- v`; PS is unchanged (R37). -/
def State.setPc (s : State) (v : Half) : State := { s with pc := v }

/-- `SP <- v`. -/
def State.setSp (s : State) (v : Half) : State := { s with sp := v }

/-- Writes the flags. -/
def State.setFlags (s : State) (f : Flags) : State := { s with flags := f }

/-- `SetNZ8(v)` (R195). -/
def State.setNZ {w : Nat} (s : State) (v : BitVec w) : State := s.setFlags (s.flags.setNZ v)

/-- `SEG[g]` (R39). -/
def State.seg (s : State) : SegReg → Byte
  | .ps => s.ps
  | .ds => s.ds
  | .ss => s.ss

/-- `SEG[g] <- v` (R39). -/
def State.setSeg (s : State) (g : SegReg) (v : Byte) : State :=
  match g with
  | .ps => { s with ps := v }
  | .ds => { s with ds := v }
  | .ss => { s with ss := v }

/-! ## The stack -/

/-- SP after a push: only SP[7:0] changes (R38, R84). -/
def spPushed (sp : Half) : Half := half (hi8 sp) (lo8 sp - 1)

/-- SP after a pop: only SP[7:0] changes (R38, R84). -/
def spPopped (sp : Half) : Half := half (hi8 sp) (lo8 sp + 1)

/-- `Push8(v)` (R84): the byte goes to (SS, SP), then SP[7:0] counts down. -/
def State.push8 (s : State) (v : Byte) : State := (s.writeByte s.ss s.sp v).setSp (spPushed s.sp)

/-- The state after `Pop8()` (R84): SP[7:0] counts up. -/
def State.popped (s : State) : State := s.setSp (spPopped s.sp)

/-- The byte `Pop8()` returns (R84): read at (SS, SP) after SP has counted up. -/
def State.top (s : State) : Byte := s.readByte s.ss (spPopped s.sp)

/-! ## Taking an exception -/

/-- The state the illegal-instruction policy gives (R453): ignore leaves it, halting halts, else the next step
resets. -/
def Configuration.illegalRun (c : Configuration) (r : RunState) : RunState :=
  if c.ignoreIllegalInstructions then r else if c.allowHalting then .halt else .reset

/-- Raising IllegalInstruction (R453, R454, R455), from the state before the opcode fetch: PC moves past the bytes
fetched, the diagnostic record is made, the policy is applied, and nothing else changes. -/
def State.raiseIllegal (s : State) (cause : IllegalCause) (bytes : List Byte) : State :=
  { s with
    pc := s.pc + BitVec.ofNat 16 bytes.length
    run := Configuration.illegalRun s.config s.run
    lastIllegal := some { cause := cause, seg := s.ps, pc := s.pc, bytes := bytes } }

/-- ILLEGAL_OPCODE (R451): one byte was fetched. -/
def State.illegalOpcode (s : State) (op : Byte) : State := s.raiseIllegal .opcode [op]

/-- ILLEGAL_SUBOP (R452): the family byte and the sub-byte were fetched. -/
def State.illegalSubop (s : State) (f : Family) (sub : Byte) : State :=
  s.raiseIllegal .subop [s.params.ext.byte f, sub]

/-- The gate of the 65C02 opcodes (R134, R135): a closed gate raises ILLEGAL_OPCODE before any operand fetch. -/
def State.gate65c02 (s : State) (op : Byte) (k : Host.Outcome State Fault Refusal) :
    Host.Outcome State Fault Refusal :=
  if s.config.allow65c02 then k else .next (s.illegalOpcode op)

/-- The gate of the extension families (R134, R136): a closed gate raises ILLEGAL_OPCODE before the sub-byte. -/
def State.gate65x02 (s : State) (f : Family) (k : Host.Outcome State Fault Refusal) :
    Host.Outcome State Fault Refusal :=
  if s.config.allow65x02 then k else .next (s.illegalOpcode (s.params.ext.byte f))

/-- The trap entry of BRK (R305, R456), from the state before the opcode fetch: the return offset is pushed high byte
first, then the status byte, through the SS in force; the segments are cleared, I is set, PC comes from the vector in
segment 0 (read after the pushes), and `haltOnBRK` halts at the end. -/
def State.enterBreak (s : State) : State :=
  let ret := s.pc + 2
  let p := ((s.push8 (hi8 ret)).push8 (lo8 ret)).push8 s.flags.pack
  { p with
    ps := 0
    ds := 0
    ss := 0
    flags := { s.flags with i := true }
    pc := p.readWord 0 0xFFFE
    run := if s.config.haltOnBRK then .halt else s.run }

/-- The return from a trap (R304, R457): the flags are popped, then PC, low byte first; no segment is restored. -/
def State.returnFromBreak (s : State) : State :=
  let t := s.popped
  let u := t.popped
  { u.popped with flags := Flags.unpack s.top, pc := half u.top t.top }

/-! ## Cycles -/

/-- Adds to the cycle counter (R45). -/
def State.charge (s : State) (k : Nat) : State := { s with cycles := s.cycles + k }

/-- Adds a step's cost to the state it answers (R503); a refusal has no state to add it to. -/
def chargeOutcome (k : Nat) : Host.Outcome State Fault Refusal → Host.Outcome State Fault Refusal
  | .next s => .next (s.charge k)
  | .fault r => .fault r
  | .refused r => .refused r

end Sys2Proof.Machine
end

