-- ==== Sys2Proof/Machine/Operands.lean ====
section
/-! DEFINITION. Every operand form: the effective addresses of R123 to R131, the page-cross predicates, and the STOR
addresses of R400. -/

namespace Sys2Proof.Machine

/-- A pointer in page 0 of DS: both bytes come from page 0, its address wraps there (R128, R129). -/
def State.zeroPagePointer (s : State) (z : Byte) : Half :=
  half (s.readByte s.ds ((z + 1).setWidth 16)) (s.readByte s.ds (z.setWidth 16))

/-- The offset in DS a memory mode names (R124 to R129). -/
def State.ea (s : State) : MemMode → Half
  | .zp z => z.setWidth 16
  | .zpx z => (z + s.x).setWidth 16
  | .zpy z => (z + s.y).setWidth 16
  | .abs a => a
  | .absx a => a + s.x.setWidth 16
  | .absy a => a + s.y.setWidth 16
  | .indx z => s.zeroPagePointer (z + s.x)
  | .indy z => s.zeroPagePointer z + s.y.setWidth 16

/-- Two offsets in different pages. -/
def pageCross (a b : Half) : Bool := decide (hi8 a ≠ hi8 b)

/-- The page-cross predicate of an indexed mode (R127, R129); false for the modes that have none. -/
def State.eaCross (s : State) : MemMode → Bool
  | .absx a => pageCross a (s.ea (.absx a))
  | .absy a => pageCross a (s.ea (.absy a))
  | .indy z => pageCross (s.zeroPagePointer z) (s.ea (.indy z))
  | .zp _ | .zpx _ | .zpy _ | .abs _ | .indx _ => false

/-- The byte at a memory operand: operands are read through DS (R84, R195). -/
def State.readMem (s : State) (m : MemMode) : Byte := s.readByte s.ds (s.ea m)

/-- `ReadOp(mode)` (R195). -/
def State.readOp (s : State) : Operand → Byte
  | .imm v => v
  | .mem m => s.readMem m

/-- `WriteOp(ea, v)` (R195): operands are written through DS. The address is `ea`'s, taken from the same state. -/
def State.writeMem (s : State) (m : MemMode) (v : Byte) : State := s.writeByte s.ds (s.ea m) v

/-- The operand bytes of a memory mode (R122). -/
def memLength : MemMode → Nat
  | .zp _ | .zpx _ | .zpy _ | .indx _ | .indy _ => 1
  | .abs _ | .absx _ | .absy _ => 2

/-- The operand bytes of a read operand (R122). -/
def operandLength : Operand → Nat
  | .imm _ => 1
  | .mem m => memLength m

/-- `next` of R131: PC after the offset byte of a two-byte branch. -/
def State.branchNext (s : State) : Half := s.pc + 2

/-- `target` of R131: the offset byte is signed and counts from `next`, wrapping inside PS. -/
def State.branchTarget (s : State) (rr : Byte) : Half := addSigned s.branchNext rr

/-- The page-cross predicate of a branch (R131): the target's page against the page of `next`. -/
def State.branchCross (s : State) (rr : Byte) : Bool := pageCross s.branchNext (s.branchTarget rr)

/-- The address of the pointer's high byte in JMP indirect (R130): `JMP_IND_PAGE_WRAP` decides, and it matters only
where the low byte is the last of its page. -/
def State.jmpPointerHigh (s : State) (a : Half) : Half :=
  if lo8 a = 0xFF ∧ s.params.jmpIndPageWrap then half (hi8 a) 0 else a + 1

/-- The target of JMP indirect (R130): both pointer bytes are read through DS. -/
def State.jmpTarget (s : State) (a : Half) : Half :=
  half (s.readByte s.ds (s.jmpPointerHigh a)) (s.readByte s.ds a)

/-- The number of operand bytes of a STOR mode (R140). -/
def storeLength : StoreMode → Nat
  | .zp _ => 1
  | .abs _ => 2
  | .far _ _ => 3
  | .stack _ => 1

/-- The segment a STOR writes to (R400). -/
def State.storeSeg (s : State) : StoreMode → Byte
  | .zp _ => s.ds
  | .abs _ => s.ds
  | .far _ seg => seg
  | .stack _ => s.ss

/-- The offset of a STOR mode before indexing (R400). -/
def State.storeBase (s : State) : StoreMode → Half
  | .zp zz => zz.setWidth 16
  | .abs a => a
  | .far a _ => a
  | .stack dd => addSigned s.sp dd

/-- The offset a STOR of width w writes to (R400): when the fields differ, the low 8 bits of the index register are
added as a signed number, mod 2^16. -/
def State.storeOff (s : State) (w : Nat) (src i : RegField) (m : StoreMode) : Half :=
  if i = src then s.storeBase m else addSigned (s.storeBase m) ((s.view w i.toNat).setWidth 8)

end Sys2Proof.Machine
end

