-- ==== Sys2Proof/Machine/LoadStore.lean ====
section
/-! DEFINITION. The meanings of 40_load_store_transfer.md. Every meaning runs on the state before the opcode fetch:
PC is at the opcode, and the meaning moves it past the instruction's bytes. -/

namespace Sys2Proof.Machine

/-- A load into the byte view n: the operand is read, the register written, N and Z set (R200, R201, R202). -/
def State.load (s : State) (n : Nat) (o : Operand) : State :=
  (((s.advance (1 + operandLength o)).setView n (s.readOp o))).setNZ (s.readOp o)

/-- A store of a byte at a memory operand (R210 to R213). -/
def State.store (s : State) (m : MemMode) (v : Byte) : State := (s.writeMem m v).advance (1 + memLength m)

/-- A transfer of a byte into the byte view n, setting N and Z (R220 to R225). -/
def State.transfer (s : State) (n : Nat) (v : Byte) : State := ((s.advance 1).setView n v).setNZ v

/-- LDA (R200). -/
def execLda (o : Operand) (s : State) : Host.Outcome State Fault Refusal := .next (s.load 1 o)

/-- LDX (R201). -/
def execLdx (o : Operand) (s : State) : Host.Outcome State Fault Refusal := .next (s.load 3 o)

/-- LDY (R202). -/
def execLdy (o : Operand) (s : State) : Host.Outcome State Fault Refusal := .next (s.load 5 o)

/-- STA (R210). -/
def execSta (m : MemMode) (s : State) : Host.Outcome State Fault Refusal := .next (s.store m s.a)

/-- STX (R211). -/
def execStx (m : MemMode) (s : State) : Host.Outcome State Fault Refusal := .next (s.store m s.x)

/-- STY (R212). -/
def execSty (m : MemMode) (s : State) : Host.Outcome State Fault Refusal := .next (s.store m s.y)

/-- The opcode byte of an instruction of the standard table, for the diagnostic record. -/
def opcodeByte (i : Instr) : Byte := i.opcode?.getD 0

/-- STZ (R213), gated by `allow65c02`. -/
def execStz (m : MemMode) (s : State) : Host.Outcome State Fault Refusal :=
  s.gate65c02 (opcodeByte (.stz m)) (.next (s.store m 0))

/-- TAX (R220). -/
def execTax (s : State) : Host.Outcome State Fault Refusal := .next (s.transfer 3 s.a)

/-- TAY (R221). -/
def execTay (s : State) : Host.Outcome State Fault Refusal := .next (s.transfer 5 s.a)

/-- TXA (R222). -/
def execTxa (s : State) : Host.Outcome State Fault Refusal := .next (s.transfer 1 s.x)

/-- TYA (R223). -/
def execTya (s : State) : Host.Outcome State Fault Refusal := .next (s.transfer 1 s.y)

/-- TSX (R225): only SP[7:0] is copied. -/
def execTsx (s : State) : Host.Outcome State Fault Refusal := .next (s.transfer 3 (lo8 s.sp))

/-- `TXS_SP_HIGH` applied to SP[15:8] (R226). -/
def txsHigh (t : TxsSpHigh) (hi : Byte) : Byte :=
  match t with
  | .identity => hi
  | .const01 => 0x01
  | .const00 => 0x00

/-- TXS (R226): SP[7:0] is X, SP[15:8] is what the parameter makes of it; no flag changes. -/
def execTxs (s : State) : Host.Outcome State Fault Refusal :=
  .next ((s.advance 1).setSp (half (txsHigh s.params.txsSpHigh (hi8 s.sp)) s.x))

end Sys2Proof.Machine
end

