-- ==== Sys2Proof/Machine/Alu.lean ====
section
/-! DEFINITION. The meanings of 41_alu_shift.md, sections 2 to 5. -/

namespace Sys2Proof.Machine

/-- Writes an ADC or SBC result to A and the flags (R240, R241). -/
def State.arith (s : State) (o : Operand) (r : ArithResult) : State :=
  ((s.advance (1 + operandLength o)).setView 1 r.value).setFlags (s.flags.setArith r)

/-- Writes a logic result to A, setting N and Z (R243, R244, R245). -/
def State.logicA (s : State) (o : Operand) (v : Byte) : State :=
  ((s.advance (1 + operandLength o)).setView 1 v).setNZ v

/-- A compare of a register's value with an operand (R247, R248, R249): only flags are written. -/
def State.compare (s : State) (r : Byte) (o : Operand) : State :=
  (s.advance (1 + operandLength o)).setFlags (s.flags.setCompare r (s.readOp o))

/-- A read-modify-write of memory: one read and one write at the same address, N and Z of the result (R250, R251). -/
def State.modify (s : State) (m : MemMode) (v : Byte) : State := ((s.writeMem m v).advance (1 + memLength m)).setNZ v

/-- ADC (R240). -/
def execAdc (o : Operand) (s : State) : Host.Outcome State Fault Refusal :=
  .next (s.arith o (adcResult s.flags s.a (s.readOp o)))

/-- SBC (R241). -/
def execSbc (o : Operand) (s : State) : Host.Outcome State Fault Refusal :=
  .next (s.arith o (sbcResult s.flags s.a (s.readOp o)))

/-- AND (R243). -/
def execAnd (o : Operand) (s : State) : Host.Outcome State Fault Refusal := .next (s.logicA o (s.a &&& s.readOp o))

/-- EOR (R244). -/
def execEor (o : Operand) (s : State) : Host.Outcome State Fault Refusal := .next (s.logicA o (s.a ^^^ s.readOp o))

/-- ORA (R245). -/
def execOra (o : Operand) (s : State) : Host.Outcome State Fault Refusal := .next (s.logicA o (s.a ||| s.readOp o))

/-- BIT (R246): A is not changed; V takes M bit 6. -/
def execBit (m : MemMode) (s : State) : Host.Outcome State Fault Refusal :=
  .next ((s.advance (1 + memLength m)).setFlags (s.flags.setBit s.a (s.readMem m)))

/-- CMP (R247). -/
def execCmp (o : Operand) (s : State) : Host.Outcome State Fault Refusal := .next (s.compare s.a o)

/-- CPX (R248). -/
def execCpx (o : Operand) (s : State) : Host.Outcome State Fault Refusal := .next (s.compare s.x o)

/-- CPY (R249). -/
def execCpy (o : Operand) (s : State) : Host.Outcome State Fault Refusal := .next (s.compare s.y o)

/-- INC (R250). -/
def execInc (m : MemMode) (s : State) : Host.Outcome State Fault Refusal := .next (s.modify m (s.readMem m + 1))

/-- DEC (R251). -/
def execDec (m : MemMode) (s : State) : Host.Outcome State Fault Refusal := .next (s.modify m (s.readMem m - 1))

/-- INX (R252). -/
def execInx (s : State) : Host.Outcome State Fault Refusal := .next (s.transfer 3 (s.x + 1))

/-- INY (R253). -/
def execIny (s : State) : Host.Outcome State Fault Refusal := .next (s.transfer 5 (s.y + 1))

/-- DEX (R254). -/
def execDex (s : State) : Host.Outcome State Fault Refusal := .next (s.transfer 3 (s.x - 1))

/-- DEY (R255). -/
def execDey (s : State) : Host.Outcome State Fault Refusal := .next (s.transfer 5 (s.y - 1))

end Sys2Proof.Machine
end

