-- ==== Sys2Proof/Machine/Control.lean ====
section
/-! DEFINITION. The meanings of 42_control.md: branches, jumps, calls, returns, BRK and NOP. -/

namespace Sys2Proof.Machine

/-- The common branch mechanism (R285): PC is the target when the condition holds, else the next instruction. -/
def State.branch (s : State) (taken : Bool) (rr : Byte) : State :=
  s.setPc (if taken then s.branchTarget rr else s.branchNext)

/-- BPL (R290). -/
def execBpl (rr : Byte) (s : State) : Host.Outcome State Fault Refusal := .next (s.branch (!s.flags.n) rr)

/-- BMI (R291). -/
def execBmi (rr : Byte) (s : State) : Host.Outcome State Fault Refusal := .next (s.branch s.flags.n rr)

/-- BVC (R292). -/
def execBvc (rr : Byte) (s : State) : Host.Outcome State Fault Refusal := .next (s.branch (!s.flags.v) rr)

/-- BVS (R293). -/
def execBvs (rr : Byte) (s : State) : Host.Outcome State Fault Refusal := .next (s.branch s.flags.v rr)

/-- BCC (R294). -/
def execBcc (rr : Byte) (s : State) : Host.Outcome State Fault Refusal := .next (s.branch (!s.flags.c) rr)

/-- BCS (R295). -/
def execBcs (rr : Byte) (s : State) : Host.Outcome State Fault Refusal := .next (s.branch s.flags.c rr)

/-- BNE (R296). -/
def execBne (rr : Byte) (s : State) : Host.Outcome State Fault Refusal := .next (s.branch (!s.flags.z) rr)

/-- BEQ (R297). -/
def execBeq (rr : Byte) (s : State) : Host.Outcome State Fault Refusal := .next (s.branch s.flags.z rr)

/-- BRA (R298), gated by `allow65c02`. -/
def execBra (rr : Byte) (s : State) : Host.Outcome State Fault Refusal := s.gate65c02 0x80 (.next (s.branch true rr))

/-- JMP absolute (R300): the operand is an offset in PS. -/
def execJmpAbs (a : Half) (s : State) : Host.Outcome State Fault Refusal := .next (s.setPc a)

/-- JMP indirect (R301, R130). -/
def execJmpInd (a : Half) (s : State) : Host.Outcome State Fault Refusal := .next (s.setPc (s.jmpTarget a))

/-- JSR (R302): the offset of the JSR's last byte is pushed, high byte first. -/
def execJsr (a : Half) (s : State) : Host.Outcome State Fault Refusal :=
  let ret := s.pc + 2
  .next (((s.push8 (hi8 ret)).push8 (lo8 ret)).setPc a)

/-- RTS (R303): PC low, PC high, plus 1. -/
def execRts (s : State) : Host.Outcome State Fault Refusal :=
  .next (s.popped.popped.setPc (half s.popped.top s.top + 1))

/-- RTI (R304). -/
def execRti (s : State) : Host.Outcome State Fault Refusal := .next s.returnFromBreak

/-- BRK (R305). -/
def execBrk (s : State) : Host.Outcome State Fault Refusal := .next s.enterBreak

/-- NOP (R306). -/
def execNop (s : State) : Host.Outcome State Fault Refusal := .next (s.advance 1)

end Sys2Proof.Machine
end

