-- ==== Sys2Proof/Machine/ExtMath.lean ====
section
/-! DEFINITION. The meanings of 45_ext_math_store.md, section 1: ADD and SUB at the three widths. -/

namespace Sys2Proof.Machine

/-- `S'` of R390: the source view, or 0 when the fields are equal. -/
def State.mathSource (s : State) (w : Nat) (d src : RegField) : BitVec w :=
  if d = src then 0 else s.view w src.toNat

/-- The bytes of a MATH instruction (R143): 2, and the constant's when there is one. -/
def mathLength {α : Type} (bytes : Nat) (k : Option α) : Nat := if k.isSome then 2 + bytes else 2

/-- The effect of a MATH instruction (R390): the result to `Rw[d]`, N, Z and C at the width, V = 0. -/
def State.math {w : Nat} (s : State) (d : RegField) (len : Nat) (r : MathResult w) : State :=
  ((s.advance len).setView d.toNat r.value).setFlags (s.flags.setMath r)

/-- XTOP1_MATH op 0: ADD.b (R390, R391). -/
def execAddB (d src : RegField) (k : Option Byte) (s : State) : Host.Outcome State Fault Refusal :=
  s.gate65x02 .xtop1Math
    (.next (s.math d (mathLength 1 k) (mathAdd (s.view 8 d.toNat) (s.mathSource 8 d src) (k.getD 0))))

/-- XTOP1_MATH op 1: SUB.b (R390, R392). -/
def execSubB (d src : RegField) (k : Option Byte) (s : State) : Host.Outcome State Fault Refusal :=
  s.gate65x02 .xtop1Math
    (.next (s.math d (mathLength 1 k) (mathSub (s.view 8 d.toNat) (s.mathSource 8 d src) (k.getD 0))))

/-- XTOP2_MATH op 0: ADD.w (R390, R393). -/
def execAddW (d src : RegField) (k : Option Half) (s : State) : Host.Outcome State Fault Refusal :=
  s.gate65x02 .xtop2Math
    (.next (s.math d (mathLength 2 k) (mathAdd (s.view 16 d.toNat) (s.mathSource 16 d src) (k.getD 0))))

/-- XTOP2_MATH op 1: SUB.w (R390, R394). -/
def execSubW (d src : RegField) (k : Option Half) (s : State) : Host.Outcome State Fault Refusal :=
  s.gate65x02 .xtop2Math
    (.next (s.math d (mathLength 2 k) (mathSub (s.view 16 d.toNat) (s.mathSource 16 d src) (k.getD 0))))

/-- XTOP3_MATH op 0: ADD.l (R390, R395). -/
def execAddL (d src : RegField) (k : Option Slot) (s : State) : Host.Outcome State Fault Refusal :=
  s.gate65x02 .xtop3Math
    (.next (s.math d (mathLength 4 k) (mathAdd (s.view 32 d.toNat) (s.mathSource 32 d src) (k.getD 0))))

/-- XTOP3_MATH op 1: SUB.l (R390, R396). -/
def execSubL (d src : RegField) (k : Option Slot) (s : State) : Host.Outcome State Fault Refusal :=
  s.gate65x02 .xtop3Math
    (.next (s.math d (mathLength 4 k) (mathSub (s.view 32 d.toNat) (s.mathSource 32 d src) (k.getD 0))))

end Sys2Proof.Machine
end

