-- ==== Sys2Proof/Machine/ExtRegs.lean ====
section
/-! DEFINITION. The meanings of 44_ext_regops.md: the families XTOP1, XTOP2, XTOP3 and XTOP1_TRX. No instruction here
writes a flag or touches data memory (R360). Each is two bytes long. -/

namespace Sys2Proof.Machine

/-- A two-byte register operation that writes the view `d` of width w. -/
def State.regOp {w : Nat} (s : State) (d : RegField) (v : BitVec w) : State := (s.advance 2).setView d.toNat v

/-- The value of op 0 (R361, R364, R368): the source view, or the complement of the view itself when the fields are
equal. -/
def State.movNot (s : State) (w : Nat) (d src : RegField) : BitVec w :=
  if d = src then ~~~(s.view w d.toNat) else s.view w src.toNat

/-- XTOP1 op 0: MOV.b / NOT.b (R361). -/
def execMovNotB (d src : RegField) (s : State) : Host.Outcome State Fault Refusal :=
  s.gate65x02 .xtop1 (.next (s.regOp d (s.movNot 8 d src)))

/-- XTOP1 op 1: SEGX.b, the documented no-op (R362). -/
def execSegxB (_x : BitVec 6) (s : State) : Host.Outcome State Fault Refusal :=
  s.gate65x02 .xtop1 (.next (s.advance 2))

/-- XTOP1 with op 2 or 3: ILLEGAL_SUBOP (R452 case 1). -/
def execIllegalXtop1 (x : BitVec 7) (s : State) : Host.Outcome State Fault Refusal :=
  s.gate65x02 .xtop1 (.next (s.illegalSubop .xtop1 (1#1 ++ x)))

/-- XTOP2 op 0: MOV.w / NOT.w (R364). -/
def execMovNotW (d src : RegField) (s : State) : Host.Outcome State Fault Refusal :=
  s.gate65x02 .xtop2 (.next (s.regOp d (s.movNot 16 d src)))

/-- XTOP2 op 1: AND.w (R365). -/
def execAndW (d src : RegField) (s : State) : Host.Outcome State Fault Refusal :=
  s.gate65x02 .xtop2 (.next (s.regOp d (s.view 16 d.toNat &&& s.view 16 src.toNat)))

/-- XTOP2 op 2: XOR.w (R366). -/
def execXorW (d src : RegField) (s : State) : Host.Outcome State Fault Refusal :=
  s.gate65x02 .xtop2 (.next (s.regOp d (s.view 16 d.toNat ^^^ s.view 16 src.toNat)))

/-- XTOP2 op 3: OR.w (R367). -/
def execOrW (d src : RegField) (s : State) : Host.Outcome State Fault Refusal :=
  s.gate65x02 .xtop2 (.next (s.regOp d (s.view 16 d.toNat ||| s.view 16 src.toNat)))

/-- XTOP3 op 0: MOV.l / NOT.l (R368). -/
def execMovNotL (d src : RegField) (s : State) : Host.Outcome State Fault Refusal :=
  s.gate65x02 .xtop3 (.next (s.regOp d (s.movNot 32 d src)))

/-- XTOP3 op 1: AND.l (R369). -/
def execAndL (d src : RegField) (s : State) : Host.Outcome State Fault Refusal :=
  s.gate65x02 .xtop3 (.next (s.regOp d (s.view 32 d.toNat &&& s.view 32 src.toNat)))

/-- XTOP3 op 2: XOR.l (R370). -/
def execXorL (d src : RegField) (s : State) : Host.Outcome State Fault Refusal :=
  s.gate65x02 .xtop3 (.next (s.regOp d (s.view 32 d.toNat ^^^ s.view 32 src.toNat)))

/-- XTOP3 op 3: OR.l (R371). -/
def execOrL (d src : RegField) (s : State) : Host.Outcome State Fault Refusal :=
  s.gate65x02 .xtop3 (.next (s.regOp d (s.view 32 d.toNat ||| s.view 32 src.toNat)))

/-- XTOP1_TRX direction 0: register to segment selector (R375). A write of PS takes effect at the next fetch (R511). -/
def execMovsToSeg (g : SegReg) (r : RegField) (s : State) : Host.Outcome State Fault Refusal :=
  s.gate65x02 .xtop1Trx (.next ((s.advance 2).setSeg g (s.view 8 r.toNat)))

/-- XTOP1_TRX direction 1: segment selector to register (R375). -/
def execMovsFromSeg (r : RegField) (g : SegReg) (s : State) : Host.Outcome State Fault Refusal :=
  s.gate65x02 .xtop1Trx (.next (s.regOp r (s.seg g)))

/-- XTOP1_TRX with selector 3 to 7: ILLEGAL_SUBOP (R375, R452 case 2). -/
def execIllegalTrx (x : BitVec 4) (g : BitVec 3) (s : State) : Host.Outcome State Fault Refusal :=
  s.gate65x02 .xtop1Trx (.next (s.illegalSubop .xtop1Trx (0#1 ++ x ++ g)))

/-- XTOP1_TRX with the reserved bit set: refused by the spec's own rule (R375, R469 case 1, D9); a closed gate comes
first and raises ILLEGAL_OPCODE (R459). -/
def execRefusedTrx (_x : BitVec 7) (s : State) : Host.Outcome State Fault Refusal :=
  s.gate65x02 .xtop1Trx (.refused .trxReservedBit)

end Sys2Proof.Machine
end

