-- ==== Sys2Proof/Machine/ExtStore.lean ====
section
/-! DEFINITION. The meanings of 45_ext_math_store.md, section 2: the indexed stores. No flag is written, no data
memory is read, DS and SP do not change (R400). -/

namespace Sys2Proof.Machine

/-- The effect of a STOR of width w that writes n bytes (R400). -/
def State.stor (s : State) (w n : Nat) (src i : RegField) (m : StoreMode) : State :=
  (s.writeLE (s.storeSeg m) (s.storeOff w src i m) n (s.view w src.toNat)).advance (2 + storeLength m)

/-- XTOP1_STOR: ST.b (R401). -/
def execStB (src i : RegField) (m : StoreMode) (s : State) : Host.Outcome State Fault Refusal :=
  s.gate65x02 .xtop1Stor (.next (s.stor 8 1 src i m))

/-- XTOP2_STOR: ST.w (R402). -/
def execStW (src i : RegField) (m : StoreMode) (s : State) : Host.Outcome State Fault Refusal :=
  s.gate65x02 .xtop2Stor (.next (s.stor 16 2 src i m))

/-- XTOP3_STOR: ST.l (R403). -/
def execStL (src i : RegField) (m : StoreMode) (s : State) : Host.Outcome State Fault Refusal :=
  s.gate65x02 .xtop3Stor (.next (s.stor 32 4 src i m))

end Sys2Proof.Machine
end

