-- ==== Sys2Proof/Machine/Shift.lean ====
section
/-! DEFINITION. The meanings of 41_alu_shift.md, section 6: shifts and rotates on A or on memory. -/

namespace Sys2Proof.Machine

/-- `Operand(mode)` of R259. -/
def State.shiftOperand (s : State) : ShiftTarget → Byte
  | .acc => s.a
  | .mem m => s.readMem m

/-- `Result(mode, r)` of R259, with PC past the instruction's bytes: A is written, or the byte the operand came from. -/
def State.shiftWrite (s : State) (t : ShiftTarget) (v : Byte) : State :=
  match t with
  | .acc => (s.advance 1).setView 1 v
  | .mem m => (s.writeMem m v).advance (1 + memLength m)

/-- A shift or rotate: the result goes back where the operand came from, C, N and Z are set (R260 to R263). -/
def State.shift (s : State) (t : ShiftTarget) (f : Byte → Bool → ShiftResult) : State :=
  let r := f (s.shiftOperand t) s.flags.c
  (s.shiftWrite t r.value).setFlags (s.flags.setShift r)

/-- ASL (R260). -/
def execAsl (t : ShiftTarget) (s : State) : Host.Outcome State Fault Refusal := .next (s.shift t aslResult)

/-- LSR (R261). -/
def execLsr (t : ShiftTarget) (s : State) : Host.Outcome State Fault Refusal := .next (s.shift t lsrResult)

/-- ROL (R262). -/
def execRol (t : ShiftTarget) (s : State) : Host.Outcome State Fault Refusal := .next (s.shift t rolResult)

/-- ROR (R263). -/
def execRor (t : ShiftTarget) (s : State) : Host.Outcome State Fault Refusal := .next (s.shift t rorResult)

end Sys2Proof.Machine
end

