-- ==== Sys2Proof/Machine/StackFlags.lean ====
section
/-! DEFINITION. The meanings of 43_stack_flags.md. -/

namespace Sys2Proof.Machine

/-- A one-byte instruction that only writes flags (R340 to R346). -/
def State.flagOp (s : State) (f : Flags) : State := (s.advance 1).setFlags f

/-- PHA (R330). -/
def execPha (s : State) : Host.Outcome State Fault Refusal := .next ((s.push8 s.a).advance 1)

/-- PHP (R331): B is pushed as stored. -/
def execPhp (s : State) : Host.Outcome State Fault Refusal := .next ((s.push8 s.flags.pack).advance 1)

/-- PLA (R332). -/
def execPla (s : State) : Host.Outcome State Fault Refusal := .next ((s.popped).transfer 1 s.top)

/-- PLP (R333): all seven flags, B included. -/
def execPlp (s : State) : Host.Outcome State Fault Refusal := .next ((s.popped).flagOp (Flags.unpack s.top))

/-- CLC (R340). -/
def execClc (s : State) : Host.Outcome State Fault Refusal := .next (s.flagOp { s.flags with c := false })

/-- SEC (R341). -/
def execSec (s : State) : Host.Outcome State Fault Refusal := .next (s.flagOp { s.flags with c := true })

/-- CLI (R342). -/
def execCli (s : State) : Host.Outcome State Fault Refusal := .next (s.flagOp { s.flags with i := false })

/-- SEI (R343). -/
def execSei (s : State) : Host.Outcome State Fault Refusal := .next (s.flagOp { s.flags with i := true })

/-- CLV (R344). -/
def execClv (s : State) : Host.Outcome State Fault Refusal := .next (s.flagOp { s.flags with v := false })

/-- CLD (R345). -/
def execCld (s : State) : Host.Outcome State Fault Refusal := .next (s.flagOp { s.flags with d := false })

/-- SED (R346). -/
def execSed (s : State) : Host.Outcome State Fault Refusal := .next (s.flagOp { s.flags with d := true })

end Sys2Proof.Machine
end

