-- ==== Sys2Proof/Machine/Dispatch.lean ====
section
/-! DEFINITION. The dispatch: one arm for each constructor of Instr, each a direct call of its meaning. -/

namespace Sys2Proof.Machine

/-- The meaning of an instruction, from the state before its opcode fetch. -/
def exec (i : Instr) (s : State) : Host.Outcome State Fault Refusal :=
  match i with
  -- 40_load_store_transfer.md
  | .lda o => Sys2Proof.Machine.execLda o s
  | .ldx o => Sys2Proof.Machine.execLdx o s
  | .ldy o => Sys2Proof.Machine.execLdy o s
  | .sta m => Sys2Proof.Machine.execSta m s
  | .stx m => Sys2Proof.Machine.execStx m s
  | .sty m => Sys2Proof.Machine.execSty m s
  | .stz m => Sys2Proof.Machine.execStz m s
  | .tax => Sys2Proof.Machine.execTax s
  | .tay => Sys2Proof.Machine.execTay s
  | .txa => Sys2Proof.Machine.execTxa s
  | .tya => Sys2Proof.Machine.execTya s
  | .tsx => Sys2Proof.Machine.execTsx s
  | .txs => Sys2Proof.Machine.execTxs s
  -- 41_alu_shift.md
  | .adc o => Sys2Proof.Machine.execAdc o s
  | .sbc o => Sys2Proof.Machine.execSbc o s
  | .and o => Sys2Proof.Machine.execAnd o s
  | .eor o => Sys2Proof.Machine.execEor o s
  | .ora o => Sys2Proof.Machine.execOra o s
  | .bit m => Sys2Proof.Machine.execBit m s
  | .cmp o => Sys2Proof.Machine.execCmp o s
  | .cpx o => Sys2Proof.Machine.execCpx o s
  | .cpy o => Sys2Proof.Machine.execCpy o s
  | .inc m => Sys2Proof.Machine.execInc m s
  | .dec m => Sys2Proof.Machine.execDec m s
  | .inx => Sys2Proof.Machine.execInx s
  | .iny => Sys2Proof.Machine.execIny s
  | .dex => Sys2Proof.Machine.execDex s
  | .dey => Sys2Proof.Machine.execDey s
  | .asl t => Sys2Proof.Machine.execAsl t s
  | .lsr t => Sys2Proof.Machine.execLsr t s
  | .rol t => Sys2Proof.Machine.execRol t s
  | .ror t => Sys2Proof.Machine.execRor t s
  -- 42_control.md
  | .bpl rr => Sys2Proof.Machine.execBpl rr s
  | .bmi rr => Sys2Proof.Machine.execBmi rr s
  | .bvc rr => Sys2Proof.Machine.execBvc rr s
  | .bvs rr => Sys2Proof.Machine.execBvs rr s
  | .bcc rr => Sys2Proof.Machine.execBcc rr s
  | .bcs rr => Sys2Proof.Machine.execBcs rr s
  | .bne rr => Sys2Proof.Machine.execBne rr s
  | .beq rr => Sys2Proof.Machine.execBeq rr s
  | .bra rr => Sys2Proof.Machine.execBra rr s
  | .jmpAbs a => Sys2Proof.Machine.execJmpAbs a s
  | .jmpInd a => Sys2Proof.Machine.execJmpInd a s
  | .jsr a => Sys2Proof.Machine.execJsr a s
  | .rts => Sys2Proof.Machine.execRts s
  | .rti => Sys2Proof.Machine.execRti s
  | .brk => Sys2Proof.Machine.execBrk s
  | .nop => Sys2Proof.Machine.execNop s
  -- 43_stack_flags.md
  | .pha => Sys2Proof.Machine.execPha s
  | .php => Sys2Proof.Machine.execPhp s
  | .pla => Sys2Proof.Machine.execPla s
  | .plp => Sys2Proof.Machine.execPlp s
  | .clc => Sys2Proof.Machine.execClc s
  | .sec => Sys2Proof.Machine.execSec s
  | .cli => Sys2Proof.Machine.execCli s
  | .sei => Sys2Proof.Machine.execSei s
  | .clv => Sys2Proof.Machine.execClv s
  | .cld => Sys2Proof.Machine.execCld s
  | .sed => Sys2Proof.Machine.execSed s
  -- 44_ext_regops.md
  | .movNotB d src => Sys2Proof.Machine.execMovNotB d src s
  | .segxB x => Sys2Proof.Machine.execSegxB x s
  | .illegalXtop1 x => Sys2Proof.Machine.execIllegalXtop1 x s
  | .movNotW d src => Sys2Proof.Machine.execMovNotW d src s
  | .andW d src => Sys2Proof.Machine.execAndW d src s
  | .xorW d src => Sys2Proof.Machine.execXorW d src s
  | .orW d src => Sys2Proof.Machine.execOrW d src s
  | .movNotL d src => Sys2Proof.Machine.execMovNotL d src s
  | .andL d src => Sys2Proof.Machine.execAndL d src s
  | .xorL d src => Sys2Proof.Machine.execXorL d src s
  | .orL d src => Sys2Proof.Machine.execOrL d src s
  | .movsToSeg g r => Sys2Proof.Machine.execMovsToSeg g r s
  | .movsFromSeg r g => Sys2Proof.Machine.execMovsFromSeg r g s
  | .illegalTrx x g => Sys2Proof.Machine.execIllegalTrx x g s
  | .refusedTrx x => Sys2Proof.Machine.execRefusedTrx x s
  -- 45_ext_math_store.md
  | .addB d src k => Sys2Proof.Machine.execAddB d src k s
  | .subB d src k => Sys2Proof.Machine.execSubB d src k s
  | .addW d src k => Sys2Proof.Machine.execAddW d src k s
  | .subW d src k => Sys2Proof.Machine.execSubW d src k s
  | .addL d src k => Sys2Proof.Machine.execAddL d src k s
  | .subL d src k => Sys2Proof.Machine.execSubL d src k s
  | .stB src j m => Sys2Proof.Machine.execStB src j m s
  | .stW src j m => Sys2Proof.Machine.execStW src j m s
  | .stL src j m => Sys2Proof.Machine.execStL src j m s

end Sys2Proof.Machine
end

