-- ==== Sys2Proof/Machine/Cycles.lean ====
section
/-! DEFINITION. Cycle costs (70_reset_and_hazards.md section 4). `CYCLE_COST` is a parameter under the constraints of
R520: here it is every function those constraints admit, made from a free part (note 7). The recommended tables R521
and R522 are one admitted value, given at the end. -/

namespace Sys2Proof.Machine

/-- What of the state before an instruction its cost may depend on (R520): was a page crossed, was a branch taken. -/
structure CycleContext where
  crossed : Bool
  taken : Bool
deriving DecidableEq, Repr

/-- The key of an instruction: its opcode with its mode, or its family with its sub-byte. -/
def cycleKey (i : Instr) : CycleKey :=
  match i.extension? with
  | some (f, sub) => .extension f sub
  | none => .standard (i.opcode?.getD 0)

/-- One if the condition holds. -/
def extra (b : Bool) : Nat := if b then 1 else 0

/-- Cost of an instruction with no further constraint than the opcode fetch (R520, 1). -/
def costFree (free : CycleKey → Bool → Bool → Nat) (i : Instr) (x : CycleContext) : Nat :=
  1 + free (cycleKey i) x.crossed x.taken

/-- Cost of a read through an operand (R520, 1 and 3): one more when the index crosses a page. -/
def costRead (free : CycleKey → Bool → Bool → Nat) (i : Instr) (x : CycleContext) : Nat :=
  1 + free (cycleKey i) false false + extra x.crossed

/-- Cost of a branch (R520, 1 and 4): a taken branch costs one more when its target is in another page than the
instruction after it. -/
def costBranch (free : CycleKey → Bool → Bool → Nat) (i : Instr) (x : CycleContext) : Nat :=
  1 + free (cycleKey i) false x.taken + (if x.taken then extra x.crossed else 0)

/-- Cost of a STOR (R520, 1 and 7): one more for mode 3, one more when the fields differ. The free part does not see
the index field. -/
def costStore (free : CycleKey → Bool → Bool → Nat) (f : Family) (src i : RegField) (m : StoreMode) : Nat :=
  1 + free (.extension f (subByte m.number src src)) false false + extra (m.number == 3) + extra (decide (i ≠ src))

/-- `CYCLE_COST` with a free part (R520). ADC immediate costs 2 and an illegal sub-byte 2, as the source and D26 fix. -/
def cycleCostWith (free : CycleKey → Bool → Bool → Nat) (i : Instr) (x : CycleContext) : Nat :=
  match i with
  | .adc (.imm _) => 2
  | .lda _ | .ldx _ | .ldy _ | .adc _ | .sbc _ | .and _ | .eor _ | .ora _ | .cmp _ => costRead free i x
  | .bpl _ | .bmi _ | .bvc _ | .bvs _ | .bcc _ | .bcs _ | .bne _ | .beq _ | .bra _ => costBranch free i x
  | .stB s j m => costStore free .xtop1Stor s j m
  | .stW s j m => costStore free .xtop2Stor s j m
  | .stL s j m => costStore free .xtop3Stor s j m
  | .illegalXtop1 _ | .illegalTrx _ _ => 2
  | .sta _ | .stx _ | .sty _ | .stz _ | .tax | .tay | .txa | .tya | .tsx | .txs
  | .bit _ | .cpx _ | .cpy _ | .inc _ | .dec _ | .inx | .iny | .dex | .dey | .asl _ | .lsr _ | .rol _ | .ror _
  | .jmpAbs _ | .jmpInd _ | .jsr _ | .rts | .rti | .brk | .nop
  | .pha | .php | .pla | .plp | .clc | .sec | .cli | .sei | .clv | .cld | .sed
  | .movNotB _ _ | .segxB _ | .movNotW _ _ | .andW _ _ | .xorW _ _ | .orW _ _
  | .movNotL _ _ | .andL _ _ | .xorL _ _ | .orL _ _ | .movsToSeg _ _ | .movsFromSeg _ _ | .refusedTrx _
  | .addB _ _ _ | .subB _ _ _ | .addW _ _ _ | .subW _ _ _ | .addL _ _ _ | .subL _ _ _ => costFree free i x

/-- The page-cross bit of a memory operand. -/
def State.operandCross (s : State) : Operand → Bool
  | .imm _ => false
  | .mem m => s.eaCross m

/-- The context of an instruction in the state before it. -/
def State.cycleContext (s : State) : Instr → CycleContext
  | .lda o | .ldx o | .ldy o | .adc o | .sbc o | .and o | .eor o | .ora o | .cmp o | .cpx o | .cpy o =>
    ⟨s.operandCross o, false⟩
  | .sta m | .stx m | .sty m | .stz m | .bit m | .inc m | .dec m => ⟨s.eaCross m, false⟩
  | .asl t | .lsr t | .rol t | .ror t => match t with
    | .acc => ⟨false, false⟩
    | .mem m => ⟨s.eaCross m, false⟩
  | .bpl r => ⟨s.branchCross r, !s.flags.n⟩
  | .bmi r => ⟨s.branchCross r, s.flags.n⟩
  | .bvc r => ⟨s.branchCross r, !s.flags.v⟩
  | .bvs r => ⟨s.branchCross r, s.flags.v⟩
  | .bcc r => ⟨s.branchCross r, !s.flags.c⟩
  | .bcs r => ⟨s.branchCross r, s.flags.c⟩
  | .bne r => ⟨s.branchCross r, !s.flags.z⟩
  | .beq r => ⟨s.branchCross r, s.flags.z⟩
  | .bra r => ⟨s.branchCross r, true⟩
  | .tax | .tay | .txa | .tya | .tsx | .txs | .inx | .iny | .dex | .dey
  | .jmpAbs _ | .jmpInd _ | .jsr _ | .rts | .rti | .brk | .nop
  | .pha | .php | .pla | .plp | .clc | .sec | .cli | .sei | .clv | .cld | .sed
  | .movNotB _ _ | .segxB _ | .illegalXtop1 _ | .movNotW _ _ | .andW _ _ | .xorW _ _ | .orW _ _
  | .movNotL _ _ | .andL _ _ | .xorL _ _ | .orL _ _ | .movsToSeg _ _ | .movsFromSeg _ _
  | .illegalTrx _ _ | .refusedTrx _
  | .addB _ _ _ | .subB _ _ _ | .addW _ _ _ | .subW _ _ _ | .addL _ _ _ | .subL _ _ _
  | .stB _ _ _ | .stW _ _ _ | .stL _ _ _ => ⟨false, false⟩

/-- Is the gate of an instruction open (R134)? -/
def State.gateOpen (s : State) (i : Instr) : Bool :=
  match i.extension? with
  | some _ => s.config.allow65x02
  | none => match i with
    | .bra _ | .stz _ => s.config.allow65c02
    | _ => true

/-- ILLEGAL_OPCODE costs 1 (R520, 5). -/
def illegalOpcodeCost : Nat := 1

/-- `CYCLE_COST` of an instruction as executed in a state (R503, R520): a closed gate is an ILLEGAL_OPCODE. -/
def State.cycleCost (s : State) (i : Instr) : Nat :=
  if s.gateOpen i then cycleCostWith Config.cycleFree i (s.cycleContext i) else illegalOpcodeCost

/-! ## The recommended tables -/

/-- The columns zp, zpx or zpy, abs, absx, absy, indx, indy of R521 for a class that reads (without `p`). -/
def readBase : Form → Nat
  | .imm => 2
  | .zp => 3
  | .zpx | .zpy | .abs | .absx | .absy => 4
  | .indx => 6
  | .indy => 5
  | .acc => 2

/-- The columns of R521 for STA, STX, STY and STZ. -/
def writeBase : Form → Nat
  | .zp => 3
  | .zpx | .zpy | .abs => 4
  | .absx | .absy => 5
  | .indx | .indy => 6
  | .imm | .acc => 2

/-- The columns of R521 for the shifts, INC and DEC. -/
def modifyBase : Form → Nat
  | .acc => 2
  | .zp => 5
  | .zpx | .abs => 6
  | .absx => 7
  | .imm | .zpy | .absy | .indx | .indy => 2

/-- The recommended cost (R521, R522). -/
def recommendedCost (i : Instr) (x : CycleContext) : Nat :=
  match i with
  | .lda o | .ldx o | .ldy o | .adc o | .sbc o | .and o | .eor o | .ora o | .cmp o =>
    readBase o.form + extra x.crossed
  | .cpx o | .cpy o => readBase o.form
  | .bit m => readBase m.form
  | .sta m | .stx m | .sty m | .stz m => writeBase m.form
  | .inc m | .dec m => modifyBase m.form
  | .asl t | .lsr t | .rol t | .ror t => modifyBase t.form
  | .bpl _ | .bmi _ | .bvc _ | .bvs _ | .bcc _ | .bcs _ | .bne _ | .beq _ | .bra _ =>
    2 + extra x.taken + (if x.taken then extra x.crossed else 0)
  | .jmpAbs _ => 3
  | .jmpInd _ => 5
  | .jsr _ | .rts | .rti => 6
  | .brk => 7
  | .pha | .php => 3
  | .pla | .plp => 4
  | .clc | .cld | .cli | .clv | .sec | .sed | .sei | .nop => 2
  | .tax | .tay | .tsx | .txa | .txs | .tya | .inx | .iny | .dex | .dey => 2
  | .movNotB _ _ | .segxB _ | .movNotW _ _ | .andW _ _ | .xorW _ _ | .orW _ _ => 2
  | .movNotL _ _ | .andL _ _ | .xorL _ _ | .orL _ _ | .movsToSeg _ _ | .movsFromSeg _ _ => 2
  | .illegalXtop1 _ | .illegalTrx _ _ | .refusedTrx _ => 2
  | .addB _ _ k | .subB _ _ k => 2 + (if k.isSome then 1 else 0)
  | .addW _ _ k | .subW _ _ k => 2 + (if k.isSome then 2 else 0)
  | .addL _ _ k | .subL _ _ k => 2 + (if k.isSome then 4 else 0)
  | .stB s j m => (2 + storeLength m) + 1 + extra (m.number == 3) + extra (decide (j ≠ s))
  | .stW s j m => (2 + storeLength m) + 2 + extra (m.number == 3) + extra (decide (j ≠ s))
  | .stL s j m => (2 + storeLength m) + 4 + extra (m.number == 3) + extra (decide (j ≠ s))

end Sys2Proof.Machine
end

