-- ==== Sys2Proof/Machine/Fetch.lean ====
section
/-! DEFINITION. Fetching an instruction's bytes from (PS, PC) (R121), and what a step does around `exec`. -/

namespace Sys2Proof.Machine

/-- The six bytes at (PS, PC), offsets wrapping inside PS (R37, R121). Reads have no side effect (R85), so looking at
bytes past the instruction changes nothing (note 16). -/
def State.fetchWindow (s : State) : Window :=
  ⟨s.readByte s.ps s.pc, s.readByte s.ps (s.pc + 1), s.readByte s.ps (s.pc + 2), s.readByte s.ps (s.pc + 3),
    s.readByte s.ps (s.pc + 4), s.readByte s.ps (s.pc + 5)⟩

/-- Writes a list of bytes at consecutive offsets of one segment, wrapping inside it (R94). -/
def State.writeBytes (s : State) (g : Byte) (o : Half) : List Byte → State
  | [] => s
  | b :: bs => (s.writeByte g o b).writeBytes g (o + 1) bs

/-- A byte that starts no instruction (R134, R451): ILLEGAL_OPCODE and its cost. -/
def State.rejectOpcode (s : State) (op : Byte) : Host.Outcome State Fault Refusal :=
  .next ((s.illegalOpcode op).charge illegalOpcodeCost)

/-- The instruction's own outcome with its cost added (R503). The cost is that of the instruction as executed, so it
is taken from the state before it. -/
def State.retire (s : State) (i : Instr) (o : Host.Outcome State Fault Refusal) : Host.Outcome State Fault Refusal :=
  chargeOutcome (s.cycleCost i) o

/-- The six bytes of a table word stored where the next step fetches, with the machine in state Normal. -/
def State.placeWord (s : State) (nbits w : Nat) : State :=
  { s.writeBytes s.ps s.pc (tableBytes s.params.ext nbits w) with run := .normal }

end Sys2Proof.Machine
end

