-- ==== Sys2Proof/Machine/Reset.lean ====
section
/-! DEFINITION. `init()` and `reset()` (70_reset_and_hazards.md R500, R501). -/

namespace Sys2Proof.Machine

/-- `init()` (R500), which clears the diagnostic record (R455). SP is the next draw of RESET_SP (note 5). PC, the segments, memory and the configuration stay. -/
def State.init (s : State) : State :=
  { s with
    gpr := Vector.replicate 8 0
    sp := Config.resetSp s.resetDraws
    flags := Flags.clear
    cycles := 0
    lastIllegal := none
    run := .reset
    resetDraws := s.resetDraws + 1 }

/-- `reset()` (R501): init, then PC from the vector at (0, 0xFFFC), the segments cleared, state Normal, and the
reset's own charge (note 8). Memory is not changed, and the diagnostic record is left alone (R455; note 9). -/
def State.performReset (s : State) : State :=
  { s.init with
    pc := s.readWord 0 0xFFFC
    ps := 0
    ds := 0
    ss := 0
    run := .normal
    lastIllegal := s.lastIllegal
    cycles := s.init.cycles + Config.resetCycles }

end Sys2Proof.Machine
end

