-- ==== Sys2Proof/Machine/Step.lean ====
section
/-! DEFINITION. The step (R503). -/

namespace Sys2Proof.Machine

/-- A step in state Normal (R503): fetch, decode, run the instruction, add its cost. -/
def State.stepNormal (s : State) : Host.Outcome State Fault Refusal :=
  match decode s.params.ext s.fetchWindow with
  | .instr i => s.retire i (exec i s)
  | .illegalOpcode op => s.rejectOpcode op

/-- `execute_next_instruction()` (R503): Reset performs `reset()` and nothing else (R502), Halt changes nothing
(R468), Normal runs one instruction. -/
def step (s : State) : Host.Outcome State Fault Refusal :=
  match s.run with
  | .reset => .next s.performReset
  | .halt => .next s
  | .normal => s.stepNormal

/-- The instruction of a table word stored where `step` fetches its next instruction (note 12). -/
def State.withFetchWord (s : State) (nbits w : Nat) : State := s.placeWord nbits w

end Sys2Proof.Machine
end

