-- ==== Sys2Proof/Machine/HostOps.lean ====
section
/-! DEFINITION. The host's operations of R467, which run between steps and never during one (note 14). Observing the
state is reading its fields; `dump` changes nothing and is left out (R95). -/

namespace Sys2Proof.Machine

/-- Construction (R467): memory all zero, the CPU as `init()` leaves it, the configuration the host's. PC and the
segments hold values no instruction observes before the first reset (note 18). -/
def State.construct (config : Configuration) (params : Params) : State :=
  State.init { State.reset with config := config, params := params }

/-- Memory `read` (R95). -/
def State.hostRead (s : State) (g : Byte) (o : Half) : Byte := s.readByte g o

/-- Memory `write` (R95). -/
def State.hostWrite (s : State) (g : Byte) (o : Half) (v : Byte) : State := s.writeByte g o v

/-- `program(g, o, bytes)` (R94): the bytes at consecutive offsets of g, and the offset after the last. -/
def State.program (s : State) (g : Byte) (o : Half) (bytes : List Byte) : State × Half :=
  (s.writeBytes g o bytes, o + BitVec.ofNat 16 bytes.length)

/-- Set configuration (R467, D37): takes effect from the next step. -/
def State.setConfig (s : State) (c : Configuration) : State := { s with config := c }

/-- Sets `haltOnBRK` alone. -/
def State.setHaltOnBRK (s : State) (h : Bool) : State := s.setConfig { s.config with haltOnBRK := h }

/-- The un-halt at the start of `execute_until_break` (R466, R467): Halt becomes Normal, any other state stays. -/
def State.unhalt (s : State) : State := { s with run := if s.run = .halt then .normal else s.run }

/-- At most `fuel` steps, up to the first after which the state is not Normal; none when that does not happen within
the fuel (a hang of the program, R467). -/
def runWhileNormal : Nat → State → Option (Host.Outcome State Fault Refusal)
  | 0, _ => none
  | n + 1, s =>
    match step s with
    | .next t => if t.run = .normal then runWhileNormal n t else some (.next t)
    | .fault r => some (.fault r)
    | .refused r => some (.refused r)

/-- `execute_until_break()` (R467): un-halt, force `haltOnBRK`, step at least once until the state leaves Normal,
restore `haltOnBRK`. The fuel bounds the number of steps; the answer is the same for every fuel that suffices. -/
def executeUntilBreak (fuel : Nat) (s : State) : Option (Host.Outcome State Fault Refusal) :=
  match runWhileNormal fuel (s.unhalt.setHaltOnBRK true) with
  | some (.next t) => some (.next (t.setHaltOnBRK s.config.haltOnBRK))
  | other => other

end Sys2Proof.Machine
end

