-- ==== Sys2Proof/Safety.lean ====
section
/-! DEFINITION. The terms the statements use: the invariant of the machine, and what it means that a part of the state
is kept. -/

namespace Sys2Proof.Machine

/-- A diagnostic record has one byte for ILLEGAL_OPCODE and two for ILLEGAL_SUBOP (R450, R455). -/
def recordOk : Option IllegalRecord → Bool
  | none => true
  | some r => match r.cause with
    | .opcode => r.bytes.length == 1
    | .subop => r.bytes.length == 2

/-- The invariant: memory is in its canonical form and holds only the 256 segments (R80, R81), EXT_OPCODE is
admissible (R145), and the diagnostic record has its shape (R455). -/
def State.Inv (s : State) : Prop := s.mem.wf = true ∧ s.params.ext.wf = true ∧ recordOk s.lastIllegal = true

/-- Every register slot is kept. -/
def sameRegs (s t : State) : Prop := t.gpr = s.gpr

/-- Every byte of the register file outside the view of width w with selector n is kept. Byte k of the file is the
8-bit view k; it lies in that view when k / (w / 8) = n. -/
def sameRegsBut (w n : Nat) (s t : State) : Prop := ∀ k < 32, k / (w / 8) ≠ n → t.view 8 k = s.view 8 k

/-- Every byte of memory is kept. -/
def sameMem (s t : State) : Prop := ∀ g o, t.readByte g o = s.readByte g o

/-- Every byte of memory outside the n bytes at (g, o) is kept; offsets wrap inside the segment (R83). -/
def sameMemBut (g : Byte) (o : Half) (n : Nat) (s t : State) : Prop :=
  ∀ h p, (∀ k < n, ¬(h = g ∧ p = o + BitVec.ofNat 16 k)) → t.readByte h p = s.readByte h p

/-- PS, DS and SS are kept. -/
def sameSegs (s t : State) : Prop := t.ps = s.ps ∧ t.ds = s.ds ∧ t.ss = s.ss

/-- What belongs to the machine around the program is kept: the configuration, the parameters, the cycle counter (a
step adds the cost after the instruction) and the draw counter. -/
def sameMachine (s t : State) : Prop :=
  t.cycles = s.cycles ∧ t.config = s.config ∧ t.params = s.params ∧ t.resetDraws = s.resetDraws

/-- The processor state and the diagnostic record are kept: no exception and no halt. -/
def sameRun (s t : State) : Prop := t.run = s.run ∧ t.lastIllegal = s.lastIllegal

/-- The segments, the processor state and the machine around the program are kept. -/
def sameRest (s t : State) : Prop := sameSegs s t ∧ sameRun s t ∧ sameMachine s t

/-- Taking ILLEGAL_OPCODE or ILLEGAL_SUBOP with the given bytes leads from s to t (R453, R454, R455): PC is past the
bytes, the policy gives the processor state, the record is made, and everything else is kept. -/
def takesIllegal (cause : IllegalCause) (bytes : List Byte) (s t : State) : Prop :=
  t.pc = s.pc + BitVec.ofNat 16 bytes.length ∧
  t.run = (if s.config.ignoreIllegalInstructions then s.run
    else if s.config.allowHalting then .halt else .reset) ∧
  t.lastIllegal = some { cause := cause, seg := s.ps, pc := s.pc, bytes := bytes } ∧
  t.flags = s.flags ∧ t.sp = s.sp ∧ sameRegs s t ∧ sameMem s t ∧ sameSegs s t ∧ sameMachine s t

end Sys2Proof.Machine
end

