-- ==== Sys2Proof/Certificates/Slice0/Obligations.lean ====
section
/-! DEFINITION. The statements for the provers. Each docstring names the rule of spec/ it formalises. A clause that
rests on a decision the spec marks as its own (92_eei_decisions.md) says so with its D number. -/

namespace Sys2Proof.Claims

open Sys2Proof.Machine

/-! ## The shapes the statements share -/

/-- In every machine, six bytes that begin with `op` decode to `mk` of them. -/
def decodesTo (op : Byte) (mk : Window → Instr) : Prop := ∀ e w, w.b0 = op → decode e w = .instr (mk w)

/-- In every machine with an admissible EXT_OPCODE, six bytes that begin with the byte of family f and whose sub-byte
has `top` in bits 7:6 and satisfies `cond` decode to `mk` of them (R136). -/
def subByteDecodesTo (f : Family) (top : BitVec 2) (cond : Byte → Prop) (mk : Window → Instr) : Prop :=
  ∀ (e : ExtOpcodes) w, e.wf = true → w.b0 = e.byte f → w.b1.extractLsb' 6 2 = top → cond w.b1 →
    decode e w = .instr (mk w)

/-- Bits 5:3 and 2:0 of a sub-byte as the two register fields of an instruction, in this order (R137, R138). -/
def fieldsOf (mk : RegField → RegField → Instr) (w : Window) : Instr :=
  mk (w.b1.extractLsb' 3 3) (w.b1.extractLsb' 0 3)

/-- A sub-op of a register family: the two fields are bits 5:3, the destination, and bits 2:0, the source (R137). -/
def subOpEncoding (f : Family) (op : BitVec 2) (mk : RegField → RegField → Instr) : Prop :=
  subByteDecodesTo f op (fun _ => True) (fieldsOf mk)

/-- A MATH family whose constant is `k` of the bytes: bit 7 says that the constant follows, bit 6 is 0 for add and 1 for
subtract, the fields are those of a register family (R138). -/
def mathEncoding {w : Nat} (f : Family) (add sub : RegField → RegField → Option (BitVec w) → Instr)
    (k : Window → BitVec w) : Prop :=
  subByteDecodesTo f 0 (fun _ => True) (fieldsOf (fun d s => add d s none)) ∧
  subByteDecodesTo f 1 (fun _ => True) (fieldsOf (fun d s => sub d s none)) ∧
  subByteDecodesTo f 2 (fun _ => True) (fun x => fieldsOf (fun d s => add d s (some (k x))) x) ∧
  subByteDecodesTo f 3 (fun _ => True) (fun x => fieldsOf (fun d s => sub d s (some (k x))) x)

/-- A STOR family: bits 7:6 are the mode, 5:3 the index register, 2:0 the source register, and the mode's operand bytes
follow (R140). -/
def storEncoding (f : Family) (mk : RegField → RegField → StoreMode → Instr) : Prop :=
  subByteDecodesTo f 0 (fun _ => True) (fun w => fieldsOf (fun i s => mk s i (.zp w.b2)) w) ∧
  subByteDecodesTo f 1 (fun _ => True) (fun w => fieldsOf (fun i s => mk s i (.abs (w.b3 ++ w.b2))) w) ∧
  subByteDecodesTo f 2 (fun _ => True) (fun w => fieldsOf (fun i s => mk s i (.far (w.b3 ++ w.b2) w.b4)) w) ∧
  subByteDecodesTo f 3 (fun _ => True) (fun w => fieldsOf (fun i s => mk s i (.stack w.b2)) w)

/-- The bytes of the eight modes of an "Encoding" line: imm, zp, zpx, abs, absx, absy, indx, indy. -/
def aluEncoding (mk : Operand → Instr) (imm zp zpx abs absx absy indx indy : Byte) : Prop :=
  decodesTo imm (fun w => mk (.imm w.b1)) ∧ decodesTo zp (fun w => mk (.mem (.zp w.b1))) ∧
  decodesTo zpx (fun w => mk (.mem (.zpx w.b1))) ∧ decodesTo abs (fun w => mk (.mem (.abs (w.b2 ++ w.b1)))) ∧
  decodesTo absx (fun w => mk (.mem (.absx (w.b2 ++ w.b1)))) ∧
  decodesTo absy (fun w => mk (.mem (.absy (w.b2 ++ w.b1)))) ∧
  decodesTo indx (fun w => mk (.mem (.indx w.b1))) ∧ decodesTo indy (fun w => mk (.mem (.indy w.b1)))

/-- The bytes of the modes zp, zpx, abs and absx. -/
def modifyEncoding (mk : MemMode → Instr) (zp zpx abs absx : Byte) : Prop :=
  decodesTo zp (fun w => mk (.zp w.b1)) ∧ decodesTo zpx (fun w => mk (.zpx w.b1)) ∧
  decodesTo abs (fun w => mk (.abs (w.b2 ++ w.b1))) ∧ decodesTo absx (fun w => mk (.absx (w.b2 ++ w.b1)))

/-- The flags with N and Z set from a byte: N is bit 7, Z says it is 0; the other five are kept. -/
def withNZ (f : Flags) (v : Byte) : Flags := { f with n := decide (128 ≤ v.toNat), z := decide (v.toNat = 0) }

/-- The instruction runs and only writes the view of width w with selector n, the flags and PC: the view holds v, the
flags are f, PC moves by len; every other register byte, SP, memory and the rest are kept. -/
def writesView (w n : Nat) (v : BitVec w) (f : Flags) (len : Nat) (i : Instr) (s : State) : Prop :=
  ∃ t, exec i s = .next t ∧ t.view w n = v ∧ t.flags = f ∧ t.pc = s.pc + BitVec.ofNat 16 len ∧ t.sp = s.sp ∧
    sameRegsBut w n s t ∧ sameMem s t ∧ sameRest s t

/-- The instruction runs and only writes the byte at (g, o), the flags and PC. The byte reads back as v when memory is
in its canonical form (the invariant `StepKeepsInvariant` is about). -/
def writesMem (g : Byte) (o : Half) (v : Byte) (f : Flags) (len : Nat) (i : Instr) (s : State) : Prop :=
  ∃ t, exec i s = .next t ∧ (s.mem.wf = true → t.readByte g o = v) ∧ t.flags = f ∧
    t.pc = s.pc + BitVec.ofNat 16 len ∧ t.sp = s.sp ∧ sameRegs s t ∧ sameMemBut g o 1 s t ∧ sameRest s t

/-- The instruction runs and only writes the flags and PC. -/
def writesFlags (f : Flags) (len : Nat) (i : Instr) (s : State) : Prop :=
  ∃ t, exec i s = .next t ∧ t.flags = f ∧ t.pc = s.pc + BitVec.ofNat 16 len ∧ t.sp = s.sp ∧ sameRegs s t ∧
    sameMem s t ∧ sameRest s t

/-- The instruction runs and only writes PC. -/
def writesPc (pc : Half) (i : Instr) (s : State) : Prop :=
  ∃ t, exec i s = .next t ∧ t.pc = pc ∧ t.flags = s.flags ∧ t.sp = s.sp ∧ sameRegs s t ∧ sameMem s t ∧ sameRest s t

/-- The offset k bytes above SP, in SP's own page (R84). -/
def stackUp (sp : Half) (k : Nat) : Half := half (hi8 sp) (lo8 sp + BitVec.ofNat 8 k)

/-- The offset k bytes below SP, in SP's own page (R84). -/
def stackDown (sp : Half) (k : Nat) : Half := half (hi8 sp) (lo8 sp - BitVec.ofNat 8 k)

/-- A load into the 8-bit view n: it holds the operand, N and Z follow it. -/
def loadRule (mk : Operand → Instr) (n : Nat) : Prop :=
  ∀ s o, writesView 8 n (s.readOp o) (withNZ s.flags (s.readOp o)) (1 + operandLength o) (mk o) s

/-- A store of the 8-bit view n at the operand's address in DS: no flag changes. -/
def storeRule (mk : MemMode → Instr) (n : Nat) : Prop :=
  ∀ s m, writesMem s.ds (s.ea m) (s.view 8 n) s.flags (1 + memLength m) (mk m) s

/-- A one-byte instruction that writes the 8-bit view n with f of the state, N and Z following it. -/
def transferRule (i : Instr) (n : Nat) (f : State → Byte) : Prop :=
  ∀ s, writesView 8 n (f s) (withNZ s.flags (f s)) 1 i s

/-- A logic instruction on A. -/
def logicRule (mk : Operand → Instr) (f : Byte → Byte → Byte) : Prop :=
  ∀ s o, writesView 8 1 (f s.a (s.readOp o)) (withNZ s.flags (f s.a (s.readOp o))) (1 + operandLength o) (mk o) s

/-- A compare of the 8-bit view n with an operand: C = (r >= M), Z = (r = M), N is bit 7 of r - M; V is kept. -/
def compareRule (mk : Operand → Instr) (n : Nat) : Prop :=
  ∀ s o, writesFlags
    { s.flags with
      c := decide ((s.readOp o).toNat ≤ (s.view 8 n).toNat)
      z := decide ((s.view 8 n).toNat = (s.readOp o).toNat)
      n := decide (128 ≤ ((s.view 8 n).toNat + 256 - (s.readOp o).toNat) % 256) }
    (1 + operandLength o) (mk o) s

/-- A read-modify-write of memory whose result is f of the byte, mod 256: N and Z follow it. -/
def modifyRule (mk : MemMode → Instr) (f : Nat → Nat) : Prop :=
  ∀ s m, writesMem s.ds (s.ea m) (BitVec.ofNat 8 (f (s.readMem m).toNat))
    (withNZ s.flags (BitVec.ofNat 8 (f (s.readMem m).toNat))) (1 + memLength m) (mk m) s

/-- A shift or rotate, on A and on memory: the result is `val` of the byte and the old carry, mod 256, the new carry
is `carry` of the byte, N and Z follow the result. -/
def shiftRule (mk : ShiftTarget → Instr) (val : Nat → Nat → Nat) (carry : Nat → Bool) : Prop :=
  (∀ s, writesView 8 1 (BitVec.ofNat 8 (val s.a.toNat s.flags.c.toNat))
    (withNZ { s.flags with c := carry s.a.toNat } (BitVec.ofNat 8 (val s.a.toNat s.flags.c.toNat))) 1 (mk .acc) s) ∧
  (∀ s m, writesMem s.ds (s.ea m) (BitVec.ofNat 8 (val (s.readMem m).toNat s.flags.c.toNat))
    (withNZ { s.flags with c := carry (s.readMem m).toNat }
      (BitVec.ofNat 8 (val (s.readMem m).toNat s.flags.c.toNat))) (1 + memLength m) (mk (.mem m)) s)

/-- A branch: `op rr`, taken when cond holds of the flags; the target is counted from the next instruction with a
signed offset, mod 2^16. -/
def branchRule (mk : Byte → Instr) (op : Byte) (cond : Flags → Bool) : Prop :=
  decodesTo op (fun w => mk w.b1) ∧
  ∀ s rr, writesPc (BitVec.ofInt 16 ((s.pc.toNat : Int) + 2 + (if cond s.flags then rr.toInt else 0))) (mk rr) s

/-- A one-byte instruction that writes the flags with f of the old ones and nothing else. -/
def flagRule (i : Instr) (op : Byte) (f : Flags → Flags) : Prop :=
  decodesTo op (fun _ => i) ∧ ∀ s, writesFlags (f s.flags) 1 i s

/-- An open extension gate lets a two-byte register operation write f of the state to the view d of width w; no flag
changes. -/
def regOpRule (w : Nat) (mk : RegField → RegField → Instr) (f : State → RegField → RegField → BitVec w) : Prop :=
  ∀ s d src, s.config.allow65x02 = true → writesView w d.toNat (f s d src) s.flags 2 (mk d src) s

/-- A MATH pair of width w with constants of n bytes. S' is 0 when the fields are equal, so the constant counts once;
C is not read. -/
def mathRule (w n : Nat) (add sub : RegField → RegField → Option (BitVec w) → Instr) : Prop :=
  ∀ s d src k, s.config.allow65x02 = true →
    let a := (s.view w d.toNat).toNat
    let b := (if d = src then 0 else (s.view w src.toNat).toNat) + (k.elim 0 BitVec.toNat)
    let len := 2 + (if k.isSome then n else 0)
    let diff := a + 2 * 2 ^ w - b
    writesView w d.toNat (BitVec.ofNat w (a + b))
      { s.flags with
        c := decide (2 ^ w ≤ a + b)
        z := decide ((a + b) % 2 ^ w = 0)
        n := decide (2 ^ (w - 1) ≤ (a + b) % 2 ^ w)
        v := false } len (add d src k) s ∧
    writesView w d.toNat (BitVec.ofNat w diff)
      { s.flags with
        c := decide (b ≤ a)
        z := decide (diff % 2 ^ w = 0)
        n := decide (2 ^ (w - 1) ≤ diff % 2 ^ w)
        v := false } len (sub d src k) s

/-- A STOR of width w: its n bytes go to consecutive offsets of its segment, low byte first; no flag, no register and
no other byte changes, SP and DS included. -/
def storRule (w n : Nat) (mk : RegField → RegField → StoreMode → Instr) : Prop :=
  ∀ s src i m, s.config.allow65x02 = true → ∃ t, exec (mk src i m) s = .next t ∧
    (s.mem.wf = true → ∀ k < n, t.readByte (s.storeSeg m) (s.storeOff w src i m + BitVec.ofNat 16 k) =
      (s.view w src.toNat).extractLsb' (8 * k) 8) ∧
    sameMemBut (s.storeSeg m) (s.storeOff w src i m) n s t ∧
    t.pc = s.pc + BitVec.ofNat 16 (2 + storeLength m) ∧ t.flags = s.flags ∧ t.sp = s.sp ∧ sameRegs s t ∧ sameRest s t

/-- The views of width w: the bits a selector names, what a write leaves there, and that every other bit of the file
and every other part of the state is kept. -/
def viewRule (w : Nat) : Prop :=
  ∀ (s : State) (n : Nat) (_ : n < 256 / w) (v : BitVec w) (j : Fin 8), (j : Nat) = n / (32 / w) →
    s.view w n = (s.gpr.get j).extractLsb' (w * (n % (32 / w))) w ∧
    (s.setView n v).view w n = v ∧
    (∀ (l : Fin 8) (b : Nat), ¬(l = j ∧ w * (n % (32 / w)) ≤ b ∧ b < w * (n % (32 / w)) + w) →
      ((s.setView n v).gpr.get l).getLsbD b = (s.gpr.get l).getLsbD b) ∧
    s.setView n v = { s with gpr := (s.setView n v).gpr }

/-- Instructions whose rule writes PC. -/
def writesFlow : Instr → Bool
  | .bpl _ | .bmi _ | .bvc _ | .bvs _ | .bcc _ | .bcs _ | .bne _ | .beq _ | .bra _ => true
  | .jmpAbs _ | .jmpInd _ | .jsr _ | .rts | .rti | .brk => true
  | _ => false

/-- Instructions whose rule writes memory. -/
def writesMemory : Instr → Bool
  | .sta _ | .stx _ | .sty _ | .stz _ | .inc _ | .dec _ => true
  | .asl (.mem _) | .lsr (.mem _) | .rol (.mem _) | .ror (.mem _) => true
  | .jsr _ | .brk | .pha | .php | .stB _ _ _ | .stW _ _ _ | .stL _ _ _ => true
  | _ => false

/-- Instructions that write N and Z: R43's row. -/
def writesNZ : Instr → Bool
  | .lda _ | .ldx _ | .ldy _ | .tax | .tay | .txa | .tya | .tsx | .pla => true
  | .adc _ | .sbc _ | .and _ | .ora _ | .eor _ | .bit _ | .cmp _ | .cpx _ | .cpy _ => true
  | .inc _ | .dec _ | .inx | .iny | .dex | .dey | .asl _ | .lsr _ | .rol _ | .ror _ => true
  | .addB _ _ _ | .subB _ _ _ | .addW _ _ _ | .subW _ _ _ | .addL _ _ _ | .subL _ _ _ | .plp | .rti => true
  | _ => false

/-- Instructions that write V: R43's row. -/
def writesV : Instr → Bool
  | .adc _ | .sbc _ | .bit _ | .clv => true
  | .addB _ _ _ | .subB _ _ _ | .addW _ _ _ | .subW _ _ _ | .addL _ _ _ | .subL _ _ _ | .plp | .rti => true
  | _ => false

/-- Instructions that write C: R43's row. -/
def writesC : Instr → Bool
  | .adc _ | .sbc _ | .cmp _ | .cpx _ | .cpy _ | .asl _ | .lsr _ | .rol _ | .ror _ | .clc | .sec => true
  | .addB _ _ _ | .subB _ _ _ | .addW _ _ _ | .subW _ _ _ | .addL _ _ _ | .subL _ _ _ | .plp | .rti => true
  | _ => false

/-- R451: the fetched opcode byte is free and no EXT_OPCODE value, is gated by a closed `allow65c02`, or is an
EXT_OPCODE value while `allow65x02` is false. -/
def illegalOpcodeAt (s : State) : Prop :=
  (s.fetchWindow.b0 ∈ freeBytes ∧ s.fetchWindow.b0 ∉ s.params.ext.bytes) ∨
  (s.fetchWindow.b0 ∈ [0x80#8, 0x64#8, 0x74#8, 0x9C#8, 0x9E#8] ∧ s.config.allow65c02 = false) ∨
  (s.fetchWindow.b0 ∈ s.params.ext.bytes ∧ s.config.allow65x02 = false)

/-- R452: behind an open gate, an XTOP1 sub-byte with op 2 or 3, or an XTOP1_TRX sub-byte with bit 7 clear and a
selector of 3 to 7. -/
def illegalSubopAt (s : State) : Prop :=
  s.config.allow65x02 = true ∧
  ((s.fetchWindow.b0 = s.params.ext.xtop1 ∧ 128 ≤ s.fetchWindow.b1.toNat) ∨
    (s.fetchWindow.b0 = s.params.ext.xtop1Trx ∧ s.fetchWindow.b1.toNat < 128 ∧ 3 ≤ s.fetchWindow.b1.toNat % 8))

/-- The nine loads and ALU instructions whose indexed reads cost one more across a page (R521). -/
def indexedReads (o : Operand) : List Instr :=
  [.lda o, .ldx o, .ldy o, .adc o, .sbc o, .and o, .eor o, .ora o, .cmp o]

/-- The branches to offset r, each with its predicate (R290 to R298). -/
def branches (r : Byte) : List (Instr × (Flags → Bool)) :=
  [(.bpl r, fun f => !f.n), (.bmi r, fun f => f.n), (.bvc r, fun f => !f.v), (.bvs r, fun f => f.v),
    (.bcc r, fun f => !f.c), (.bcs r, fun f => f.c), (.bne r, fun f => !f.z), (.beq r, fun f => f.z),
    (.bra r, fun _ => true)]

/-- n + 1 steps lead from s to t, and after each but the last the state is Normal. -/
def stepsNormalTo : Nat → State → State → Prop
  | 0, s, t => step s = .next t
  | n + 1, s, t => ∃ u, step s = .next u ∧ u.run = .normal ∧ stepsNormalTo n u t

/-- The MATH instructions. -/
def isMath : Instr → Bool
  | .addB _ _ _ | .subB _ _ _ | .addW _ _ _ | .subW _ _ _ | .addL _ _ _ | .subL _ _ _ => true
  | _ => false

end Sys2Proof.Claims

open Sys2Proof Sys2Proof.Machine Sys2Proof.Claims

/-! ## Encoding -/

/-- Decoding the bytes of any well-formed instruction, whatever follows them, gives it back (R120, R132, R136 to
R143): every instruction, every operand value, every admissible EXT_OPCODE. -/
def Obligations.DecodeEncodeAgree : Prop :=
  ∀ (e : ExtOpcodes) (i : Instr) (rest : List Byte), e.wf = true → i.wellFormed = true →
    decode e (Window.ofList (encode e i ++ rest)) = .instr i

/-- What the decoder reads is well-formed, is at most six bytes long, and encodes back to the bytes it was read from
(R120, R143): no two byte sequences share an instruction, and no operand bit is dropped. -/
def Obligations.DecodedBytesEncodeBack : Prop :=
  ∀ (e : ExtOpcodes) (w : Window) (i : Instr), decode e w = .instr i →
    i.wellFormed = true ∧ encode e i = w.bytes.take (encode e i).length ∧
    1 ≤ (encode e i).length ∧ (encode e i).length ≤ 6

/-- The decoder rejects exactly the bytes of R133 that are no EXT_OPCODE value (R133, R134; case 1 of R451). That the
map of R132 holds exactly the documented opcodes is the spec's decision D29. -/
def Obligations.IllegalBytesAreTheFreeOnes : Prop :=
  ∀ (e : ExtOpcodes) (w : Window) (op : Byte),
    decode e w = .illegalOpcode op ↔ (op = w.b0 ∧ w.b0 ∈ freeBytes ∧ w.b0 ∉ e.bytes)

/-- Words written out from the spec's encodings decode to their instructions, in a machine whose family bytes are
0x03, 0x13, … 0x93 (R132, R137 to R140). -/
def Obligations.SampleWordsDecode : Prop :=
  let e : ExtOpcodes := ⟨0x03, 0x13, 0x23, 0x33, 0x43, 0x53, 0x63, 0x73, 0x83, 0x93⟩
  decode e (Window.ofList [0x69, 0x20]) = .instr (.adc (.imm 0x20)) ∧
  decode e (Window.ofList [0x8D, 0x00, 0x40]) = .instr (.sta (.abs 0x4000)) ∧
  decode e (Window.ofList [0x00]) = .instr .brk ∧
  decode e (Window.ofList [0x02]) = .illegalOpcode 0x02 ∧
  decode e (Window.ofList [0x03, 0x0B]) = .instr (.movNotB 1 3) ∧
  decode e (Window.ofList [0x53, 0xD3, 0xFF, 0x00]) = .instr (.subW 2 3 (some 0x00FF)) ∧
  decode e (Window.ofList [0x73, 0x99, 0x01, 0x40, 0xF0]) = .instr (.stB 1 3 (.far 0x4001 0xF0))

/-! ## The step -/

/-- The bytes fetched are those at (PS, PC), offsets wrapping in PS, and a byte written there by any earlier write is
the byte fetched (R37, R84, R92, R121; PC's wrap is the spec's D16). In state Normal a step runs the instruction the six
bytes at (PS, PC) decode to, and adds its cost to the state the instruction answers; a byte that starts no instruction
takes ILLEGAL_OPCODE and costs one cycle (R134, R451 case 1, R453, R454, R503; the cost is the spec's D26, PC after the
exception its D28). -/
def Obligations.StepRunsTheDecodedInstruction : Prop :=
  (∀ (s : State), ∀ k < 6,
    s.fetchWindow.bytes[k]? = some (s.readByte s.ps (BitVec.ofNat 16 (s.pc.toNat + k)))) ∧
  (∀ (s : State) (g : Byte) (o : Half) (v : Byte), s.mem.wf = true → ∀ k < 6,
    (s.writeByte g o v).fetchWindow.bytes[k]? =
      if g = s.ps ∧ o = BitVec.ofNat 16 (s.pc.toNat + k) then some v else s.fetchWindow.bytes[k]?) ∧
  ∀ (s : State), s.run = .normal →
    (∀ i, decode s.params.ext s.fetchWindow = .instr i → step s = chargeOutcome (s.cycleCost i) (exec i s)) ∧
    (∀ op, decode s.params.ext s.fetchWindow = .illegalOpcode op →
      ∃ t, step s = .next (t.charge 1) ∧ takesIllegal .opcode [op] s t)

/-- A step in state Reset performs reset() and runs no instruction (R500, R501, R502, R48). SP is a draw (D25) and the
charge a parameter (D45): both are free values here (notes 5 and 8). The diagnostic record is left alone, as R455 says;
that R455 and not the init() of R501 decides this is the model's reading (note 9). -/
def Obligations.ResetStepPerformsReset : Prop :=
  ∀ (s : State), s.run = .reset → ∃ t, step s = .next t ∧ t.run = .normal ∧
    t.pc = half (s.readByte 0 0xFFFD) (s.readByte 0 0xFFFC) ∧ t.ps = 0 ∧ t.ds = 0 ∧ t.ss = 0 ∧
    (∀ w n, t.view w n = 0) ∧ t.flags = ⟨false, false, false, false, false, false, false⟩ ∧
    t.sp = Config.resetSp s.resetDraws ∧ t.resetDraws = s.resetDraws + 1 ∧ t.cycles = Config.resetCycles ∧
    t.lastIllegal = s.lastIllegal ∧ sameMem s t ∧ t.config = s.config ∧ t.params = s.params

/-- A step in state Halt changes nothing (R468). -/
def Obligations.HaltStepChangesNothing : Prop := ∀ (s : State), s.run = .halt → step s = .next s

/-- The invariant holds in the state after reset (R48, R81, R145). -/
def Obligations.InvariantHoldsAtReset : Prop := State.reset.Inv

/-- Every step keeps the invariant: memory stays in its canonical form inside the 256 segments, EXT_OPCODE stays
admissible, the diagnostic record keeps its shape. No step writes the configuration or a parameter (R6, R46, R80, R81,
R145, R455). -/
def Obligations.StepKeepsInvariant : Prop :=
  ∀ (s t : State), s.Inv → step s = .next t → t.Inv ∧ t.config = s.config ∧ t.params = s.params

/-- The only step without a next state is an XTOP1_TRX with its reserved bit set, behind an open gate (R469 case 1,
D9): no step faults, and no other step is refused. -/
def Obligations.StepStopsOnlyAtTheReservedBit : Prop :=
  ∀ (s : State), (∃ t, step s = .next t) ∨
    (step s = .refused .trxReservedBit ∧ s.run = .normal ∧ s.config.allow65x02 = true ∧
      ∃ x, decode s.params.ext s.fetchWindow = .instr (.refusedTrx x))

/-- State Normal is left only as R503's table says: to Halt by BRK with haltOnBRK, and to Halt or Reset by an illegal
instruction the configuration does not ignore. That instruction is one of R451 or R452, and it changed nothing but PC,
the record and the cycles. The other way round, with an admissible EXT_OPCODE every byte of R451 takes ILLEGAL_OPCODE
with that byte for one cycle, and every sub-byte of R452 takes ILLEGAL_SUBOP with both bytes for two (R453, R454; the
order of gate and fetch is the spec's D28 and D35, the cost of a sub-byte its D26). -/
def Obligations.NormalIsLeftOnlyByBreakOrIllegal : Prop :=
  (∀ (s t : State), s.run = .normal → step s = .next t → t.run ≠ .normal →
    (t.run = .halt ∧ decode s.params.ext s.fetchWindow = .instr .brk ∧ s.config.haltOnBRK = true) ∨
    (s.config.ignoreIllegalInstructions = false ∧ ∃ u,
      (illegalOpcodeAt s ∧ t = u.charge 1 ∧ takesIllegal .opcode [s.fetchWindow.b0] s u) ∨
      (illegalSubopAt s ∧ t = u.charge 2 ∧ takesIllegal .subop [s.fetchWindow.b0, s.fetchWindow.b1] s u))) ∧
  (∀ (s : State), s.run = .normal → s.params.ext.wf = true → illegalOpcodeAt s →
    ∃ u, step s = .next (u.charge 1) ∧ takesIllegal .opcode [s.fetchWindow.b0] s u) ∧
  (∀ (s : State), s.run = .normal → s.params.ext.wf = true → illegalSubopAt s →
    ∃ u, step s = .next (u.charge 2) ∧ takesIllegal .subop [s.fetchWindow.b0, s.fetchWindow.b1] s u)

/-- In state Normal only BRK and XTOP1_TRX direction 0 write a segment selector, and only TXS changes SP[15:8] (R38,
R39, R89, R226). -/
def Obligations.WritersOfSegmentsAndStackPage : Prop :=
  ∀ (s t : State), s.run = .normal → step s = .next t →
    (¬ sameSegs s t → decode s.params.ext s.fetchWindow = .instr .brk ∨
      ∃ g r, decode s.params.ext s.fetchWindow = .instr (.movsToSeg g r)) ∧
    (hi8 t.sp ≠ hi8 s.sp → decode s.params.ext s.fetchWindow = .instr .txs)

/-- Who writes each flag (R43): N, Z, V and C change only by the instructions of R43's rows for them. V becomes 1 only by BIT (D21), PLP and RTI; B changes only by PLP and RTI (D23);
D also by CLD and SED, and not by BRK (D24); I also by CLI, SEI and BRK. Of the extension only MATH changes a flag (D6,
D10). The D numbers are the spec's own decisions. -/
def Obligations.WritersOfTheFlags : Prop :=
  ∀ (s t : State) (i : Instr), s.run = .normal → step s = .next t → decode s.params.ext s.fetchWindow = .instr i →
    (t.flags.n ≠ s.flags.n → writesNZ i = true) ∧ (t.flags.z ≠ s.flags.z → writesNZ i = true) ∧
    (t.flags.v ≠ s.flags.v → writesV i = true) ∧ (t.flags.c ≠ s.flags.c → writesC i = true) ∧
    (s.flags.v = false → t.flags.v = true → (∃ m, i = .bit m) ∨ i = .plp ∨ i = .rti) ∧
    (t.flags.b ≠ s.flags.b → i = .plp ∨ i = .rti) ∧
    (t.flags.d ≠ s.flags.d → i = .plp ∨ i = .rti ∨ i = .cld ∨ i = .sed) ∧
    (t.flags.i ≠ s.flags.i → i = .plp ∨ i = .rti ∨ i = .cli ∨ i = .sei ∨ i = .brk) ∧
    (i.extension?.isSome = true → isMath i = false → t.flags = s.flags)

/-- Only the stores, the memory forms of INC, DEC and the shifts, the pushes, JSR and BRK write memory (R84, R86). -/
def Obligations.OnlyStoresWriteMemory : Prop :=
  ∀ (s t : State), s.run = .normal → step s = .next t → ¬ sameMem s t →
    ∃ i, decode s.params.ext s.fetchWindow = .instr i ∧ writesMemory i = true

/-- In state Normal every step adds at least the opcode fetch's cycle, so the counter decreases only at a reset (R45,
constraint 1 of R520). -/
def Obligations.CycleCounterAdvances : Prop :=
  ∀ (s t : State), s.run = .normal → step s = .next t → s.cycles + 1 ≤ t.cycles

/-- An instruction that does not write PC by its own rule, behind an open gate, leaves PC past its encoded bytes (R120,
R121, R143). -/
def Obligations.PcMovesPastTheInstruction : Prop :=
  ∀ (e : ExtOpcodes) (s t : State) (i : Instr), i.wellFormed = true → s.gateOpen i = true → writesFlow i = false →
    exec i s = .next t → t.pc = s.pc + BitVec.ofNat 16 (encode e i).length

/-- The constraints of R520 hold for every free part of CYCLE_COST: at least 1; ADC immediate 2; an indexed read and a
taken branch one more across a page; an illegal sub-byte 2 (the spec's D26) and a closed gate 1; STOR exactly one more
when the fields differ, and mode 3's extra cycle on top of the opcode fetch. Which reads are indexed reads is the
model's reading of R521 (note 7). The page-cross bit a step gives a read is that of its operand, the one it gives a
branch compares the target's page with the page of the instruction after the branch, and the taken bit is the branch's
predicate (R131, R285; the page compared is the spec's D31). -/
def Obligations.CycleCostsMeetTheConstraints : Prop :=
  ∀ (free : CycleKey → Bool → Bool → Nat),
    (∀ i x, 1 ≤ cycleCostWith free i x) ∧
    (∀ v x, cycleCostWith free (.adc (.imm v)) x = 2) ∧
    (∀ m p, ∀ i ∈ indexedReads (.mem m),
      cycleCostWith free i ⟨true, p⟩ = cycleCostWith free i ⟨false, p⟩ + 1) ∧
    (∀ r, ∀ b ∈ branches r, cycleCostWith free b.1 ⟨true, true⟩ = cycleCostWith free b.1 ⟨false, true⟩ + 1) ∧
    (∀ (s : State) v, ∀ i ∈ indexedReads (.imm v), s.cycleContext i = ⟨false, false⟩) ∧
    (∀ (s : State) m, ∀ i ∈ indexedReads (.mem m), s.cycleContext i = ⟨s.eaCross m, false⟩) ∧
    (∀ (s : State) r, ∀ b ∈ branches r, s.cycleContext b.1 = ⟨s.branchCross r, b.2 s.flags⟩) ∧
    (∀ (s : State) (r : Byte),
      let next : Int := ((s.pc.toNat : Int) + 2) % 65536
      s.branchCross r = decide (next / 256 ≠ (next + r.toInt) % 65536 / 256)) ∧
    (∀ x y, cycleCostWith free (.illegalXtop1 x) y = 2) ∧ (∀ x g y, cycleCostWith free (.illegalTrx x g) y = 2) ∧
    (∀ src j m x, j ≠ src →
      cycleCostWith free (.stB src j m) x = cycleCostWith free (.stB src src m) x + 1 ∧
      cycleCostWith free (.stW src j m) x = cycleCostWith free (.stW src src m) x + 1 ∧
      cycleCostWith free (.stL src j m) x = cycleCostWith free (.stL src src m) x + 1) ∧
    (∀ src j dd x, 2 ≤ cycleCostWith free (.stB src j (.stack dd)) x ∧
      2 ≤ cycleCostWith free (.stW src j (.stack dd)) x ∧ 2 ≤ cycleCostWith free (.stL src j (.stack dd)) x) ∧
    (∀ (s : State) i, s.cycleCost i =
      if s.gateOpen i then cycleCostWith Config.cycleFree i (s.cycleContext i) else 1)

/-- The recommended tables are one admitted value of CYCLE_COST: some free part gives them, for every well-formed
instruction in every state (R521, R522; the spec's D26). -/
def Obligations.RecommendedCyclesAreAdmitted : Prop :=
  ∃ free : CycleKey → Bool → Bool → Nat, ∀ (s : State) (i : Instr), i.wellFormed = true →
    cycleCostWith free i (s.cycleContext i) = recommendedCost i (s.cycleContext i)

/-! ## Registers, memory, flags -/

/-- The register views (R31, R32, R33): the 8-bit selector s names byte s % 4 of slot s / 4, the 16-bit selector half
s % 2 of slot s / 2, the 32-bit selector slot s; a write changes that view alone. -/
def Obligations.RegisterViewsFollowTheFile : Prop := viewRule 8 ∧ viewRule 16 ∧ viewRule 32

/-- A, X and Y are lanes of the file (R34): bits 15:8 and 31:24 of slot 0 and bits 15:8 of slot 1, so each wider view
over them shows them. -/
def Obligations.LegacyRegistersAreLanes : Prop :=
  ∀ (s : State),
    s.a = (s.gpr.get 0).extractLsb' 8 8 ∧ s.x = (s.gpr.get 0).extractLsb' 24 8 ∧
    s.y = (s.gpr.get 1).extractLsb' 8 8 ∧
    hi8 (s.view 16 0) = s.a ∧ hi8 (s.view 16 1) = s.x ∧ hi8 (s.view 16 2) = s.y ∧
    (s.view 32 0).extractLsb' 8 8 = s.a ∧ (s.view 32 0).extractLsb' 24 8 = s.x ∧
    (s.view 32 1).extractLsb' 8 8 = s.y

/-- A write changes exactly one byte (R82): it reads back there, in a memory of canonical form, and every other
(segment, offset) reads as before; nothing but memory changes. -/
def Obligations.MemWriteChangesOneByte : Prop :=
  ∀ (s : State) (g : Byte) (o : Half) (v : Byte),
    (s.mem.wf = true → (s.writeByte g o v).readByte g o = v) ∧ sameMemBut g o 1 s (s.writeByte g o v) ∧
    s.writeByte g o v = { s with mem := (s.writeByte g o v).mem }

/-- Multi-byte accesses of 2 and 4 bytes are little-endian and wrap inside the segment (R83; the spec's D12): a write
reads back whole, byte k at offset o + k mod 2^16, and touches no other byte. -/
def Obligations.MultiByteAccessWrapsInSegment : Prop :=
  ∀ (s : State) (g : Byte) (o : Half) (v : BitVec 32) (n : Nat), s.mem.wf = true → n = 2 ∨ n = 4 →
    (s.writeLE g o n v).readLE g o n = v.toNat % 2 ^ (8 * n) ∧
    (∀ k < n, (s.writeLE g o n v).readByte g (BitVec.ofNat 16 (o.toNat + k)) = v.extractLsb' (8 * k) 8) ∧
    sameMemBut g o n s (s.writeLE g o n v)

/-- A push writes at (SS, SP) and then counts SP[7:0] down; a pop counts SP[7:0] up and then reads; a pop after a push
gives the byte back and SP as it was (R84; the order is the spec's D13). -/
def Obligations.PushAndPopStayInThePage : Prop :=
  ∀ (s : State) (v : Byte), s.mem.wf = true →
    (s.push8 v).readByte s.ss s.sp = v ∧ (s.push8 v).sp.toNat = s.sp.toNat / 256 * 256 + (s.sp.toNat + 255) % 256 ∧
    s.popped.sp.toNat = s.sp.toNat / 256 * 256 + (s.sp.toNat + 1) % 256 ∧
    s.top = s.readByte s.ss s.popped.sp ∧ (s.push8 v).top = v ∧ (s.push8 v).popped.sp = s.sp

/-- The flag byte has N V 1 B D I Z C at bits 7 to 0 (R41); UnpackP takes each flag from its bit, so that PackP after
it gives the byte with bit 5 set (R42). The spec gives the bit positions from general knowledge. -/
def Obligations.FlagByteLayout : Prop :=
  (∀ (f : Flags), f.pack.toNat = 128 * f.n.toNat + 64 * f.v.toNat + 32 + 16 * f.b.toNat + 8 * f.d.toNat +
    4 * f.i.toNat + 2 * f.z.toNat + f.c.toNat ∧ Flags.unpack f.pack = f) ∧
  ∀ (b : Byte), (Flags.unpack b).pack = b ||| 0x20 ∧
    Flags.unpack b = ⟨b.getLsbD 7, b.getLsbD 6, b.getLsbD 4, b.getLsbD 3, b.getLsbD 2, b.getLsbD 1, b.getLsbD 0⟩

/-- The flag primitive (R235): at each width, for every selection, result and baseline. -/
def Obligations.SetFlagsPrimitive : Prop :=
  ∀ (f : Flags) (sel : FlagSelection) (w : Width) (result baseline : Nat),
    f.setFlags sel w result baseline =
      { f with
        z := if sel.z then decide (result % 2 ^ w.bits = 0) else f.z
        n := if sel.n then decide (2 ^ (w.bits - 1) ≤ result % 2 ^ w.bits) else f.n
        c := if sel.c then decide (result < baseline) else f.c
        v := if sel.v then false else f.v }

/-- The effective addresses and page-cross predicates (R124 to R129; the zero-page and 16-bit wraps are the spec's
D17, the segment DS its D15), with every sum written out mod 256 or mod 65536. An immediate operand is its byte, a
memory operand the byte at that offset in DS (R84, R123, R195). -/
def Obligations.EffectiveAddressesFollowTheModes : Prop :=
  ∀ (s : State) (z : Byte) (a : Half),
    let ptr (p : Nat) : Nat := (s.readByte s.ds (BitVec.ofNat 16 (p % 256))).toNat +
      256 * (s.readByte s.ds (BitVec.ofNat 16 ((p + 1) % 256))).toNat
    (s.ea (.zp z)).toNat = z.toNat ∧
    (s.ea (.zpx z)).toNat = (z.toNat + s.x.toNat) % 256 ∧
    (s.ea (.zpy z)).toNat = (z.toNat + s.y.toNat) % 256 ∧
    s.ea (.abs a) = a ∧
    (s.ea (.absx a)).toNat = (a.toNat + s.x.toNat) % 65536 ∧
    (s.ea (.absy a)).toNat = (a.toNat + s.y.toNat) % 65536 ∧
    (s.ea (.indx z)).toNat = ptr (z.toNat + s.x.toNat) ∧
    (s.ea (.indy z)).toNat = (ptr z.toNat + s.y.toNat) % 65536 ∧
    s.eaCross (.absx a) = decide (a.toNat / 256 ≠ (a.toNat + s.x.toNat) % 65536 / 256) ∧
    s.eaCross (.absy a) = decide (a.toNat / 256 ≠ (a.toNat + s.y.toNat) % 65536 / 256) ∧
    s.eaCross (.indy z) = decide (ptr z.toNat / 256 ≠ (ptr z.toNat + s.y.toNat) % 65536 / 256) ∧
    s.eaCross (.zp z) = false ∧ s.eaCross (.zpx z) = false ∧ s.eaCross (.zpy z) = false ∧
    s.eaCross (.abs a) = false ∧ s.eaCross (.indx z) = false ∧
    s.readOp (.imm z) = z ∧ ∀ m, s.readMem m = s.readByte s.ds (s.ea m) ∧
      s.readOp (.mem m) = s.readByte s.ds (s.ea m)

/-- The address a STOR writes to (R400; the spec's D11): its segment by mode, its offset with the low 8 bits of the
index register added as a signed number when the fields differ, mod 2^16. -/
def Obligations.StoreAddressesFollowTheModes : Prop :=
  ∀ (s : State) (src i : RegField) (zz dd seg : Byte) (a : Half), ∀ w ∈ [8, 16, 32],
    let index : Int := if i = src then 0 else ((s.view w i.toNat).setWidth 8).toInt
    s.storeSeg (.zp zz) = s.ds ∧ s.storeSeg (.abs a) = s.ds ∧ s.storeSeg (.far a seg) = seg ∧
    s.storeSeg (.stack dd) = s.ss ∧
    ((s.storeOff w src i (.zp zz)).toNat : Int) = ((zz.toNat : Int) + index) % 65536 ∧
    ((s.storeOff w src i (.abs a)).toNat : Int) = ((a.toNat : Int) + index) % 65536 ∧
    ((s.storeOff w src i (.far a seg)).toNat : Int) = ((a.toNat : Int) + index) % 65536 ∧
    ((s.storeOff w src i (.stack dd)).toNat : Int) = ((s.sp.toNat : Int) + dd.toInt + index) % 65536

/-! ## Loads, stores, transfers -/

/-- LDA, LDX and LDY with their encodings, in every mode (R200, R201, R202). The spec gives these rules from general
knowledge (D20). -/
def Obligations.LoadsWriteTheirRegister : Prop :=
  aluEncoding .lda 0xA9 0xA5 0xB5 0xAD 0xBD 0xB9 0xA1 0xB1 ∧
  decodesTo 0xA2 (fun w => .ldx (.imm w.b1)) ∧ decodesTo 0xA6 (fun w => .ldx (.mem (.zp w.b1))) ∧
  decodesTo 0xB6 (fun w => .ldx (.mem (.zpy w.b1))) ∧ decodesTo 0xAE (fun w => .ldx (.mem (.abs (w.b2 ++ w.b1)))) ∧
  decodesTo 0xBE (fun w => .ldx (.mem (.absy (w.b2 ++ w.b1)))) ∧
  decodesTo 0xA0 (fun w => .ldy (.imm w.b1)) ∧ modifyEncoding (fun m => .ldy (.mem m)) 0xA4 0xB4 0xAC 0xBC ∧
  loadRule .lda 1 ∧ loadRule .ldx 3 ∧ loadRule .ldy 5

/-- STA, STX and STY with their encodings, in every mode (R210, R211, R212). The spec gives these rules from general
knowledge (D20). -/
def Obligations.StoresWriteOneByte : Prop :=
  modifyEncoding .sta 0x85 0x95 0x8D 0x9D ∧ decodesTo 0x99 (fun w => .sta (.absy (w.b2 ++ w.b1))) ∧
  decodesTo 0x81 (fun w => .sta (.indx w.b1)) ∧ decodesTo 0x91 (fun w => .sta (.indy w.b1)) ∧
  decodesTo 0x86 (fun w => .stx (.zp w.b1)) ∧ decodesTo 0x96 (fun w => .stx (.zpy w.b1)) ∧
  decodesTo 0x8E (fun w => .stx (.abs (w.b2 ++ w.b1))) ∧
  decodesTo 0x84 (fun w => .sty (.zp w.b1)) ∧ decodesTo 0x94 (fun w => .sty (.zpx w.b1)) ∧
  decodesTo 0x8C (fun w => .sty (.abs (w.b2 ++ w.b1))) ∧
  storeRule .sta 1 ∧ storeRule .stx 3 ∧ storeRule .sty 5

/-- STZ (R213): with the gate open it writes 0; with the gate closed it takes ILLEGAL_OPCODE with its own opcode byte
and PC at its first operand byte (R134, R451, R453, R454; the gate's place before the operand is the spec's D28, the
record that of R455, notes 9, 15 and 19). The spec gives this rule from general knowledge (D20). -/
def Obligations.StzStoresZeroBehindItsGate : Prop :=
  modifyEncoding .stz 0x64 0x74 0x9C 0x9E ∧
  (∀ s m, s.config.allow65c02 = true → writesMem s.ds (s.ea m) 0 s.flags (1 + memLength m) (.stz m) s) ∧
  (∀ (s : State) (m : MemMode) (op : Byte), s.config.allow65c02 = false → (Instr.stz m).opcode? = some op →
    ∃ t, exec (.stz m) s = .next t ∧ takesIllegal .opcode [op] s t)

/-- TAX, TAY, TXA and TYA (R220 to R223). The spec gives these rules from general knowledge (D20). -/
def Obligations.TransfersCopyAndSetNZ : Prop :=
  decodesTo 0xAA (fun _ => .tax) ∧ decodesTo 0xA8 (fun _ => .tay) ∧ decodesTo 0x8A (fun _ => .txa) ∧
  decodesTo 0x98 (fun _ => .tya) ∧
  transferRule .tax 3 (fun s => s.a) ∧ transferRule .tay 5 (fun s => s.a) ∧ transferRule .txa 1 (fun s => s.x) ∧
  transferRule .tya 1 (fun s => s.y)

/-- TSX copies SP[7:0]; TXS writes X to SP[7:0] and `TXS_SP_HIGH` of SP[15:8] above it, for every admitted value, and
no flag (R225, R226; the spec's D14). -/
def Obligations.StackPointerTransfers : Prop :=
  decodesTo 0xBA (fun _ => .tsx) ∧ decodesTo 0x9A (fun _ => .txs) ∧
  transferRule .tsx 3 (fun s => lo8 s.sp) ∧
  ∀ (s : State), ∃ t, exec .txs s = .next t ∧ lo8 t.sp = s.x ∧
    (s.params.txsSpHigh = .identity → hi8 t.sp = hi8 s.sp) ∧ (s.params.txsSpHigh = .const01 → hi8 t.sp = 0x01) ∧
    (s.params.txsSpHigh = .const00 → hi8 t.sp = 0x00) ∧
    t.flags = s.flags ∧ t.pc = s.pc + 1 ∧ sameRegs s t ∧ sameMem s t ∧ sameRest s t

/-! ## Arithmetic and logic -/

/-- ADC (R236, R240, R242): with D = 0 the binary sum, its carry and V = 0; with D = 1 the result and flags of the
parameter DECIMAL_ARITH (a free value, note 3) and V = 0. -/
def Obligations.AdcAddsWithCarry : Prop :=
  aluEncoding .adc 0x69 0x65 0x75 0x6D 0x7D 0x79 0x61 0x71 ∧
  (∀ s o, s.flags.d = false →
    let sum := s.a.toNat + (s.readOp o).toNat + s.flags.c.toNat
    writesView 8 1 (BitVec.ofNat 8 sum)
      { s.flags with c := decide (256 ≤ sum), z := decide (sum % 256 = 0), n := decide (128 ≤ sum % 256), v := false }
      (1 + operandLength o) (.adc o) s) ∧
  (∀ s o, s.flags.d = true →
    let r := Config.decimalArith .adc s.a (s.readOp o) s.flags.c
    writesView 8 1 r.value { s.flags with c := r.c, z := r.z, n := r.n, v := false } (1 + operandLength o) (.adc o) s)

/-- SBC (R236, R241, R242): with D = 0 the binary difference less the borrow (the complement of C), C = no borrow and
V = 0; with D = 1 the result and flags of the parameter DECIMAL_ARITH (a free value, note 3) and V = 0. -/
def Obligations.SbcSubtractsWithBorrow : Prop :=
  aluEncoding .sbc 0xE9 0xE5 0xF5 0xED 0xFD 0xF9 0xE1 0xF1 ∧
  (∀ s o, s.flags.d = false →
    let diff := s.a.toNat + 256 - (s.readOp o).toNat - (1 - s.flags.c.toNat)
    writesView 8 1 (BitVec.ofNat 8 diff)
      { s.flags with
        c := decide (256 ≤ diff), z := decide (diff % 256 = 0), n := decide (128 ≤ diff % 256), v := false }
      (1 + operandLength o) (.sbc o) s) ∧
  (∀ s o, s.flags.d = true →
    let r := Config.decimalArith .sbc s.a (s.readOp o) s.flags.c
    writesView 8 1 r.value { s.flags with c := r.c, z := r.z, n := r.n, v := false } (1 + operandLength o) (.sbc o) s)

/-- AND, EOR and ORA (R243, R244, R245). The spec gives these rules from general knowledge (D20). -/
def Obligations.LogicWritesTheAccumulator : Prop :=
  aluEncoding .and 0x29 0x25 0x35 0x2D 0x3D 0x39 0x21 0x31 ∧
  aluEncoding .eor 0x49 0x45 0x55 0x4D 0x5D 0x59 0x41 0x51 ∧
  aluEncoding .ora 0x09 0x05 0x15 0x0D 0x1D 0x19 0x01 0x11 ∧
  logicRule .and (fun a m => a &&& m) ∧ logicRule .eor (fun a m => a ^^^ m) ∧ logicRule .ora (fun a m => a ||| m)

/-- BIT (R246; V is the spec's D21): Z from A and M, N and V from M bits 7 and 6; A and C are kept. -/
def Obligations.BitTestsWithoutWriting : Prop :=
  decodesTo 0x24 (fun w => .bit (.zp w.b1)) ∧ decodesTo 0x2C (fun w => .bit (.abs (w.b2 ++ w.b1))) ∧
  ∀ (s : State) m, writesFlags { s.flags with
      z := decide ((s.a &&& s.readMem m).toNat = 0)
      n := decide (128 ≤ (s.readMem m).toNat)
      v := decide (64 ≤ (s.readMem m).toNat % 128) } (1 + memLength m) (.bit m) s

/-- CMP, CPX and CPY (R247, R248, R249; V unchanged is the spec's D22). -/
def Obligations.ComparesWriteOnlyFlags : Prop :=
  aluEncoding .cmp 0xC9 0xC5 0xD5 0xCD 0xDD 0xD9 0xC1 0xD1 ∧
  decodesTo 0xE0 (fun w => .cpx (.imm w.b1)) ∧ decodesTo 0xE4 (fun w => .cpx (.mem (.zp w.b1))) ∧
  decodesTo 0xEC (fun w => .cpx (.mem (.abs (w.b2 ++ w.b1)))) ∧
  decodesTo 0xC0 (fun w => .cpy (.imm w.b1)) ∧ decodesTo 0xC4 (fun w => .cpy (.mem (.zp w.b1))) ∧
  decodesTo 0xCC (fun w => .cpy (.mem (.abs (w.b2 ++ w.b1)))) ∧
  compareRule .cmp 1 ∧ compareRule .cpx 3 ∧ compareRule .cpy 5

/-- INC and DEC on memory (R250, R251): one read and one write at the same address, C kept. The spec gives these rules
from general knowledge (D20). -/
def Obligations.IncDecModifyMemory : Prop :=
  modifyEncoding .inc 0xE6 0xF6 0xEE 0xFE ∧ modifyEncoding .dec 0xC6 0xD6 0xCE 0xDE ∧
  modifyRule .inc (fun v => v + 1) ∧ modifyRule .dec (fun v => v + 255)

/-- INX, INY, DEX and DEY (R252 to R255). The spec gives these rules from general knowledge (D20). -/
def Obligations.IndexRegistersCount : Prop :=
  decodesTo 0xE8 (fun _ => .inx) ∧ decodesTo 0xC8 (fun _ => .iny) ∧ decodesTo 0xCA (fun _ => .dex) ∧
  decodesTo 0x88 (fun _ => .dey) ∧
  transferRule .inx 3 (fun s => BitVec.ofNat 8 (s.x.toNat + 1)) ∧
  transferRule .iny 5 (fun s => BitVec.ofNat 8 (s.y.toNat + 1)) ∧
  transferRule .dex 3 (fun s => BitVec.ofNat 8 (s.x.toNat + 255)) ∧
  transferRule .dey 5 (fun s => BitVec.ofNat 8 (s.y.toNat + 255))

/-- ASL, LSR, ROL and ROR on A and on memory (R259 to R263): one bit moves out into C; ROL and ROR take the old carry
in. The spec gives these rules from general knowledge (D20). -/
def Obligations.ShiftsAndRotatesMoveOneBit : Prop :=
  decodesTo 0x0A (fun _ => .asl .acc) ∧ modifyEncoding (fun m => .asl (.mem m)) 0x06 0x16 0x0E 0x1E ∧
  decodesTo 0x4A (fun _ => .lsr .acc) ∧ modifyEncoding (fun m => .lsr (.mem m)) 0x46 0x56 0x4E 0x5E ∧
  shiftRule .asl (fun v _ => 2 * v) (fun v => decide (128 ≤ v)) ∧
  shiftRule .lsr (fun v _ => v / 2) (fun v => decide (v % 2 = 1)) ∧
  decodesTo 0x2A (fun _ => .rol .acc) ∧ modifyEncoding (fun m => .rol (.mem m)) 0x26 0x36 0x2E 0x3E ∧
  decodesTo 0x6A (fun _ => .ror .acc) ∧ modifyEncoding (fun m => .ror (.mem m)) 0x66 0x76 0x6E 0x7E ∧
  shiftRule .rol (fun v c => 2 * v + c) (fun v => decide (128 ≤ v)) ∧
  shiftRule .ror (fun v c => 128 * c + v / 2) (fun v => decide (v % 2 = 1))

/-! ## Control -/

/-- The eight conditional branches, each with its byte and its predicate (R290 to R297). The spec gives these rules
from general knowledge (D20). -/
def Obligations.BranchesFollowTheirFlag : Prop :=
  branchRule .bpl 0x10 (fun f => !f.n) ∧ branchRule .bmi 0x30 (fun f => f.n) ∧
  branchRule .bvc 0x50 (fun f => !f.v) ∧ branchRule .bvs 0x70 (fun f => f.v) ∧
  branchRule .bcc 0x90 (fun f => !f.c) ∧ branchRule .bcs 0xB0 (fun f => f.c) ∧
  branchRule .bne 0xD0 (fun f => !f.z) ∧ branchRule .beq 0xF0 (fun f => f.z)

/-- BRA (R298): always taken behind an open gate; with the gate closed it takes ILLEGAL_OPCODE before the offset is
fetched (R134, R451, R453, R454; the gate's place is the spec's D28, the record that of R455, notes 9, 15 and 19). The
spec gives this rule from general knowledge (D20). -/
def Obligations.BraBranchesBehindItsGate : Prop :=
  decodesTo 0x80 (fun w => .bra w.b1) ∧
  (∀ s rr, s.config.allow65c02 = true →
    writesPc (BitVec.ofInt 16 ((s.pc.toNat : Int) + 2 + rr.toInt)) (.bra rr) s) ∧
  (∀ (s : State) rr, s.config.allow65c02 = false →
    ∃ t, exec (.bra rr) s = .next t ∧ takesIllegal .opcode [0x80] s t)

/-- JMP absolute writes PC alone, and NOP only moves PC past itself (R300, R306). The spec gives these rules from
general knowledge (D20). -/
def Obligations.JumpAbsoluteAndNop : Prop :=
  decodesTo 0x4C (fun w => .jmpAbs (w.b2 ++ w.b1)) ∧ decodesTo 0xEA (fun _ => .nop) ∧
  (∀ s a, writesPc a (.jmpAbs a) s) ∧ (∀ s, writesPc (s.pc + 1) .nop s)

/-- JMP indirect (R130, R301; the pointer in DS is the spec's D15, the page wrap its D18): the pointer's high byte
comes from its own page when JMP_IND_PAGE_WRAP holds, else from the next offset. -/
def Obligations.JumpIndirectReadsItsPointer : Prop :=
  decodesTo 0x6C (fun w => .jmpInd (w.b2 ++ w.b1)) ∧
  ∀ s a, writesPc
    (half (s.readByte s.ds (if s.params.jmpIndPageWrap then half (hi8 a) (lo8 a + 1) else a + 1)) (s.readByte s.ds a))
    (.jmpInd a) s

/-- JSR (R302; the push order is the spec's D13): the offset of its last byte is pushed through SS, high byte first,
and PC becomes the operand; only those two bytes of memory change. -/
def Obligations.JsrPushesItsReturnAddress : Prop :=
  decodesTo 0x20 (fun w => .jsr (w.b2 ++ w.b1)) ∧
  ∀ (s : State) a, ∃ t, exec (.jsr a) s = .next t ∧ t.pc = a ∧ t.sp = stackDown s.sp 2 ∧
    (s.mem.wf = true → t.readByte s.ss s.sp = hi8 (s.pc + 2) ∧ t.readByte s.ss (stackDown s.sp 1) = lo8 (s.pc + 2)) ∧
    (∀ g o, ¬(g = s.ss ∧ (o = s.sp ∨ o = stackDown s.sp 1)) → t.readByte g o = s.readByte g o) ∧
    t.flags = s.flags ∧ sameRegs s t ∧ sameRest s t

/-- RTS (R303): PC is the popped offset, low byte first, plus 1; no segment is restored. -/
def Obligations.RtsPopsItsReturnAddress : Prop :=
  decodesTo 0x60 (fun _ => .rts) ∧
  ∀ (s : State), ∃ t, exec .rts s = .next t ∧
    t.pc = half (s.readByte s.ss (stackUp s.sp 2)) (s.readByte s.ss (stackUp s.sp 1)) + 1 ∧
    t.sp = stackUp s.sp 2 ∧ t.flags = s.flags ∧ sameRegs s t ∧ sameMem s t ∧ sameRest s t

/-- A subroutine call returns: RTS right after JSR goes to the instruction after the JSR and leaves SP as it was
(R302, R303). -/
def Obligations.ReturnUndoesCall : Prop :=
  ∀ (s t u : State) a, s.mem.wf = true → exec (.jsr a) s = .next t → exec .rts t = .next u →
    u.pc = s.pc + 3 ∧ u.sp = s.sp

/-- BRK (R305, R456): the return offset pc0 + 2 and the flag byte go to the stack through the old SS, high byte first;
the segments become 0, I becomes 1, no other flag changes; PC is the vector read from segment 0 after the pushes; with
haltOnBRK the state becomes Halt. B as stored is the spec's D23, D kept its D24, the push order its D13. -/
def Obligations.BreakTakesTheTrap : Prop :=
  decodesTo 0x00 (fun _ => .brk) ∧
  ∀ (s : State), ∃ t, exec .brk s = .next t ∧
    (s.mem.wf = true → t.readByte s.ss s.sp = hi8 (s.pc + 2) ∧ t.readByte s.ss (stackDown s.sp 1) = lo8 (s.pc + 2) ∧
      t.readByte s.ss (stackDown s.sp 2) = s.flags.pack) ∧
    (∀ g o, ¬(g = s.ss ∧ (o = s.sp ∨ o = stackDown s.sp 1 ∨ o = stackDown s.sp 2)) →
      t.readByte g o = s.readByte g o) ∧
    t.sp = stackDown s.sp 3 ∧ t.ps = 0 ∧ t.ds = 0 ∧ t.ss = 0 ∧ t.flags = { s.flags with i := true } ∧
    t.pc = half (t.readByte 0 0xFFFF) (t.readByte 0 0xFFFE) ∧
    t.run = (if s.config.haltOnBRK then .halt else s.run) ∧
    t.lastIllegal = s.lastIllegal ∧ sameRegs s t ∧ sameMachine s t

/-- RTI (R304; B is the spec's D23): the flags, then PC low and PC high are popped through the current SS; no segment
is restored and nothing is added to PC. -/
def Obligations.RtiPopsFlagsAndPc : Prop :=
  decodesTo 0x40 (fun _ => .rti) ∧
  ∀ (s : State), ∃ t, exec .rti s = .next t ∧ t.flags = Flags.unpack (s.readByte s.ss (stackUp s.sp 1)) ∧
    t.pc = half (s.readByte s.ss (stackUp s.sp 3)) (s.readByte s.ss (stackUp s.sp 2)) ∧
    t.sp = stackUp s.sp 3 ∧ sameRegs s t ∧ sameMem s t ∧ sameRest s t

/-- RTI undoes BRK when SS was 0: the flags (I included), SP and the offset after BRK's signature byte come back, and
the segments stay 0 (R304, R305, R457). -/
def Obligations.ReturnUndoesBreak : Prop :=
  ∀ (s t u : State), s.mem.wf = true → s.ss = 0 → exec .brk s = .next t → exec .rti t = .next u →
    u.pc = s.pc + 2 ∧ u.flags = s.flags ∧ u.sp = s.sp ∧ u.ps = 0 ∧ u.ds = 0 ∧ u.ss = 0 ∧ sameRegs s u

/-! ## Stack and flags -/

/-- PHA, PLA, PHP and PLP (R330 to R333; the order of the access and the SP change is the spec's D13, B as stored its
D23): one byte at (SS, SP), SP[7:0] wrapping in its page. -/
def Obligations.StackInstructionsMoveOneByte : Prop :=
  decodesTo 0x48 (fun _ => .pha) ∧ decodesTo 0x68 (fun _ => .pla) ∧
  (∀ (s : State), ∃ t, exec .pha s = .next t ∧ (s.mem.wf = true → t.readByte s.ss s.sp = s.a) ∧
    sameMemBut s.ss s.sp 1 s t ∧ t.sp = stackDown s.sp 1 ∧ t.pc = s.pc + 1 ∧ t.flags = s.flags ∧ sameRegs s t ∧
    sameRest s t) ∧
  (∀ (s : State), ∃ t, exec .pla s = .next t ∧ t.a = s.readByte s.ss (stackUp s.sp 1) ∧
    t.flags = withNZ s.flags (s.readByte s.ss (stackUp s.sp 1)) ∧ t.sp = stackUp s.sp 1 ∧ t.pc = s.pc + 1 ∧
    sameRegsBut 8 1 s t ∧ sameMem s t ∧ sameRest s t) ∧
  decodesTo 0x08 (fun _ => .php) ∧ decodesTo 0x28 (fun _ => .plp) ∧
  (∀ (s : State), ∃ t, exec .php s = .next t ∧ (s.mem.wf = true → t.readByte s.ss s.sp = s.flags.pack) ∧
    sameMemBut s.ss s.sp 1 s t ∧ t.sp = stackDown s.sp 1 ∧ t.pc = s.pc + 1 ∧ t.flags = s.flags ∧ sameRegs s t ∧
    sameRest s t) ∧
  (∀ (s : State), ∃ t, exec .plp s = .next t ∧ t.flags = Flags.unpack (s.readByte s.ss (stackUp s.sp 1)) ∧
    t.sp = stackUp s.sp 1 ∧ t.pc = s.pc + 1 ∧ sameRegs s t ∧ sameMem s t ∧ sameRest s t)

/-- CLC, SEC, CLI, SEI, CLV, CLD and SED write one flag each (R340 to R346). The spec gives these rules from general
knowledge (D20). -/
def Obligations.FlagInstructionsWriteOneFlag : Prop :=
  flagRule .clc 0x18 (fun f => { f with c := false }) ∧ flagRule .sec 0x38 (fun f => { f with c := true }) ∧
  flagRule .cli 0x58 (fun f => { f with i := false }) ∧ flagRule .sei 0x78 (fun f => { f with i := true }) ∧
  flagRule .clv 0xB8 (fun f => { f with v := false }) ∧ flagRule .cld 0xD8 (fun f => { f with d := false }) ∧
  flagRule .sed 0xF8 (fun f => { f with d := true })

/-! ## The extension -/

/-- A closed gate: every extension instruction takes ILLEGAL_OPCODE with its family's byte, before its sub-byte (R136,
case 3 of R451; the order is the spec's D35). -/
def Obligations.ClosedGateRejectsTheExtension : Prop :=
  ∀ (s : State) (i : Instr) (f : Family) (b : Byte), i.extension? = some (f, b) → s.config.allow65x02 = false →
    ∃ t, exec i s = .next t ∧ takesIllegal .opcode [s.params.ext.byte f] s t

/-- XTOP1, XTOP2 and XTOP3 (R361, R364 to R371): op 0 moves when the fields differ and complements within the width
when they are equal (the spec's D40); AND at op 1 (its D3), XOR at op 2, OR at op 3; no flag (its D6). The sub-byte's bits 7:6
are the op, 5:3 the destination, 2:0 the source (R137, R360), and field n names the view n (its D2). -/
def Obligations.RegisterOperationsWriteTheDestination : Prop :=
  subOpEncoding .xtop1 0 .movNotB ∧
  subOpEncoding .xtop2 0 .movNotW ∧ subOpEncoding .xtop2 1 .andW ∧ subOpEncoding .xtop2 2 .xorW ∧
  subOpEncoding .xtop2 3 .orW ∧
  subOpEncoding .xtop3 0 .movNotL ∧ subOpEncoding .xtop3 1 .andL ∧ subOpEncoding .xtop3 2 .xorL ∧
  subOpEncoding .xtop3 3 .orL ∧
  regOpRule 8 .movNotB (fun s d src => if d = src then ~~~(s.view 8 d.toNat) else s.view 8 src.toNat) ∧
  regOpRule 16 .movNotW (fun s d src => if d = src then ~~~(s.view 16 d.toNat) else s.view 16 src.toNat) ∧
  regOpRule 32 .movNotL (fun s d src => if d = src then ~~~(s.view 32 d.toNat) else s.view 32 src.toNat) ∧
  regOpRule 16 .andW (fun s d src => s.view 16 d.toNat &&& s.view 16 src.toNat) ∧
  regOpRule 16 .xorW (fun s d src => s.view 16 d.toNat ^^^ s.view 16 src.toNat) ∧
  regOpRule 16 .orW (fun s d src => s.view 16 d.toNat ||| s.view 16 src.toNat) ∧
  regOpRule 32 .andL (fun s d src => s.view 32 d.toNat &&& s.view 32 src.toNat) ∧
  regOpRule 32 .xorL (fun s d src => s.view 32 d.toNat ^^^ s.view 32 src.toNat) ∧
  regOpRule 32 .orL (fun s d src => s.view 32 d.toNat ||| s.view 32 src.toNat)

/-- The sub-bytes without a register effect, behind an open gate. SEGX.b changes only PC (R362; the no-op is the
spec's D5). XTOP1 with bit 7 set and XTOP1_TRX with bit 7 clear and selector 3 to 7 take ILLEGAL_SUBOP with the family
byte and the sub-byte (R452, R453, R454; D4 and D28). XTOP1_TRX with bit 7 set is refused (R375, R469 case 1; D9). Each
is read from its own sub-bytes (R137, R139, R360; the order of the TRX fields is the spec's D7). -/
def Obligations.SubBytesWithoutARegisterEffect : Prop :=
  subByteDecodesTo .xtop1 1 (fun _ => True) (fun w => .segxB (w.b1.extractLsb' 0 6)) ∧
  (∀ top ∈ [2#2, 3#2],
    subByteDecodesTo .xtop1 top (fun _ => True) (fun w => .illegalXtop1 (w.b1.extractLsb' 0 7)) ∧
    subByteDecodesTo .xtop1Trx top (fun _ => True) (fun w => .refusedTrx (w.b1.extractLsb' 0 7))) ∧
  (∀ top ∈ [0#2, 1#2], subByteDecodesTo .xtop1Trx top (fun b => 3 ≤ b.toNat % 8)
    (fun w => .illegalTrx (w.b1.extractLsb' 3 4) (w.b1.extractLsb' 0 3))) ∧
  (∀ (s : State) (x : BitVec 6), s.config.allow65x02 = true → writesPc (s.pc + 2) (.segxB x) s) ∧
  (∀ (s : State) (x : BitVec 7), s.config.allow65x02 = true → ∃ t, exec (.illegalXtop1 x) s = .next t ∧
    takesIllegal .subop [s.params.ext.xtop1, BitVec.ofNat 8 (128 + x.toNat)] s t) ∧
  (∀ (s : State) (x : BitVec 4) (g : BitVec 3), s.config.allow65x02 = true → 3 ≤ g.toNat →
    ∃ t, exec (.illegalTrx x g) s = .next t ∧
      takesIllegal .subop [s.params.ext.xtop1Trx, BitVec.ofNat 8 (8 * x.toNat + g.toNat)] s t) ∧
  (∀ (s : State) (x : BitVec 7), s.config.allow65x02 = true → exec (.refusedTrx x) s = .refused .trxReservedBit)

/-- MOVS in both directions (R375; no flag is the spec's D10): register to selector writes that selector alone,
selector to register writes that 8-bit view alone. In the sub-byte bit 7 is 0, bit 6 the direction, bits 5:3 the
register and bits 2:0 the selector, 0 PS, 1 DS, 2 SS (R39, R139; the order of the fields is the spec's D7, the field
mapping its D2). -/
def Obligations.MovsMovesOneByte : Prop :=
  (∀ p ∈ [(0, SegReg.ps), (1, SegReg.ds), (2, SegReg.ss)],
    subByteDecodesTo .xtop1Trx 0 (fun b => b.toNat % 8 = p.1) (fun w => .movsToSeg p.2 (w.b1.extractLsb' 3 3)) ∧
    subByteDecodesTo .xtop1Trx 1 (fun b => b.toNat % 8 = p.1) (fun w => .movsFromSeg (w.b1.extractLsb' 3 3) p.2)) ∧
  (∀ (s : State) (g : SegReg) (r : RegField), s.config.allow65x02 = true →
    ∃ t, exec (.movsToSeg g r) s = .next t ∧ t.seg g = s.view 8 r.toNat ∧ (∀ h, h ≠ g → t.seg h = s.seg h) ∧
      t.pc = s.pc + 2 ∧ t.flags = s.flags ∧ t.sp = s.sp ∧ sameRegs s t ∧ sameMem s t ∧ sameRun s t ∧
      sameMachine s t) ∧
  (∀ (s : State) (r : RegField) (g : SegReg), s.config.allow65x02 = true →
    writesView 8 r.toNat (s.seg g) s.flags 2 (.movsFromSeg r g) s)

/-- ADD and SUB at the three widths, with and without a constant (R390 to R396; the carry and the constant's place are
the spec's D8, D7 and D43; V = 0 is R236). The sub-byte's bit 7 says that a constant of the width follows, low byte
first, bit 6 is 0 for ADD and 1 for SUB, bits 5:3 are the destination and 2:0 the source (R138, R142; the order is the
spec's D7, the field mapping its D2). -/
def Obligations.MathAddsAndSubtracts : Prop :=
  mathEncoding .xtop1Math .addB .subB (fun w => w.b2) ∧
  mathEncoding .xtop2Math .addW .subW (fun w => w.b3 ++ w.b2) ∧
  mathEncoding .xtop3Math .addL .subL (fun w => w.b5 ++ w.b4 ++ w.b3 ++ w.b2) ∧
  mathRule 8 1 .addB .subB ∧ mathRule 16 2 .addW .subW ∧ mathRule 32 4 .addL .subL

/-- ST.b, ST.w and ST.l in every mode (R400 to R403; the address arithmetic is the spec's D11, the byte order its D12,
no flag its D6). The sub-byte's bits 7:6 are the mode, 5:3 the index register, 2:0 the source register, and the mode's
operand bytes follow, offset low byte first, then the segment (R140, R142; the order is the spec's D7, the field mapping
its D2). -/
def Obligations.IndexedStoresWriteTheirBytes : Prop :=
  storEncoding .xtop1Stor .stB ∧ storEncoding .xtop2Stor .stW ∧ storEncoding .xtop3Stor .stL ∧
  storRule 8 1 .stB ∧ storRule 16 2 .stW ∧ storRule 32 4 .stL

/-! ## The host -/

/-- `program` writes its bytes at consecutive offsets of one segment, wrapping, and returns the offset after the last
(R94). Byte k is read back there unless a byte 65536 places later wrapped onto it; no other byte changes. -/
def Obligations.ProgramWritesItsBytes : Prop :=
  ∀ (s : State) (g : Byte) (o : Half) (bs : List Byte),
    (s.program g o bs).2 = BitVec.ofNat 16 (o.toNat + bs.length) ∧
    (s.mem.wf = true → ∀ k (h : k < bs.length), bs.length ≤ k + 65536 →
      (s.program g o bs).1.readByte g (BitVec.ofNat 16 (o.toNat + k)) = bs[k]) ∧
    sameMemBut g o bs.length s (s.program g o bs).1 ∧
    (s.program g o bs).1 = { s with mem := (s.program g o bs).1.mem }

/-- `execute_until_break` un-halts, forces haltOnBRK, takes at least one step, and goes on exactly until a step leaves
state Normal; it answers that state with the configuration given back as it was, haltOnBRK included (R467; the do-while
reading is the spec's D32). So it ends outside state Normal, and its answer does not depend on how much fuel it had. -/
def Obligations.RunToBreakRestoresThePolicy : Prop :=
  (∀ (s t : State) (fuel : Nat), executeUntilBreak fuel s = some (.next t) ↔
    ∃ n < fuel, ∃ u,
      stepsNormalTo n { s with
        run := if s.run = .halt then .normal else s.run
        config := { s.config with haltOnBRK := true } } u ∧
      u.run ≠ .normal ∧ t = { u with config := s.config }) ∧
  ∀ (s t : State) (fuel more : Nat), executeUntilBreak fuel s = some (.next t) →
    t.run ≠ .normal ∧ t.config = s.config ∧ executeUntilBreak (fuel + more) s = some (.next t)
end

