-- ==== Sys2Proof/Laws/Bits.lean ====
section
/-! SUPPORT. The laws of the bit-field helpers: the two bytes of a 16-bit value, and the stack pointer's page. -/

namespace Sys2Proof.Machine

theorem half_toNat (hi lo : Byte) : (half hi lo).toNat = 256 * hi.toNat + lo.toNat := by
  have hb := lo.isLt
  show (hi ++ lo : BitVec (8 + 8)).toNat = _
  rw [BitVec.toNat_append, ← Nat.shiftLeft_add_eq_or_of_lt hb, Nat.shiftLeft_eq]
  omega

theorem lo8_toNat (v : Half) : (lo8 v).toNat = v.toNat % 256 := by simp [lo8]

theorem hi8_toNat (v : Half) : (hi8 v).toNat = v.toNat / 256 := by
  have := v.isLt
  simp only [hi8, BitVec.extractLsb'_toNat, Nat.shiftRight_eq_div_pow]
  omega

@[simp] theorem lo8_half (hi lo : Byte) : lo8 (half hi lo) = lo := by
  have := lo.isLt
  apply BitVec.eq_of_toNat_eq
  rw [lo8_toNat, half_toNat]
  omega

@[simp] theorem hi8_half (hi lo : Byte) : hi8 (half hi lo) = hi := by
  have := lo.isLt
  apply BitVec.eq_of_toNat_eq
  rw [hi8_toNat, half_toNat]
  omega

@[simp] theorem half_hi8_lo8 (v : Half) : half (hi8 v) (lo8 v) = v := by
  apply BitVec.eq_of_toNat_eq
  rw [half_toNat, lo8_toNat, hi8_toNat]
  omega

theorem half_inj {a b c d : Byte} : half a b = half c d ↔ a = c ∧ b = d :=
  ⟨fun h => ⟨by simpa only [hi8_half] using congrArg hi8 h, by simpa only [lo8_half] using congrArg lo8 h⟩,
    fun ⟨h, k⟩ => by rw [h, k]⟩

/-! ## The stack pointer (R84) -/

@[simp] theorem hi8_spPushed (sp : Half) : hi8 (spPushed sp) = hi8 sp := hi8_half _ _

@[simp] theorem lo8_spPushed (sp : Half) : lo8 (spPushed sp) = lo8 sp - 1 := lo8_half _ _

@[simp] theorem hi8_spPopped (sp : Half) : hi8 (spPopped sp) = hi8 sp := hi8_half _ _

@[simp] theorem lo8_spPopped (sp : Half) : lo8 (spPopped sp) = lo8 sp + 1 := lo8_half _ _

@[simp] theorem spPopped_spPushed (sp : Half) : spPopped (spPushed sp) = sp := by
  simp [spPopped]

@[simp] theorem spPushed_spPopped (sp : Half) : spPushed (spPopped sp) = sp := by
  simp [spPushed]

/-- Two offsets of a page are the same when their low bytes are. -/
theorem eq_of_lo8_hi8 {a b : Half} (h : hi8 a = hi8 b) (l : lo8 a = lo8 b) : a = b := by
  rw [← half_hi8_lo8 a, h, l, half_hi8_lo8]

/-- A push moves SP away from the byte it wrote. -/
theorem spPushed_ne (sp : Half) : spPushed sp ≠ sp := by
  intro h
  have e := congrArg lo8 h
  rw [lo8_spPushed] at e
  exact absurd e (by generalize lo8 sp = b; revert b; decide)

/-- Two pushes move SP away from the byte the first wrote. -/
theorem spPushed_spPushed_ne (sp : Half) : spPushed (spPushed sp) ≠ sp := by
  intro h
  have e := congrArg lo8 h
  rw [lo8_spPushed, lo8_spPushed] at e
  exact absurd e (by generalize lo8 sp = b; revert b; decide)

end Sys2Proof.Machine
end

