-- ==== Sys2Proof/Laws/Encoding.lean ====
section
/-! SUPPORT. The laws of the encoding: which bytes start which instruction, the fields of a sub-byte, the bytes of an
operand, and that every draw of EXT_OPCODE is admissible. -/

namespace Sys2Proof

/-! ## Opcode bytes (R132, R133, R145) -/

/-- The free bytes are exactly those without a row of R132. -/
theorem lookup_eq_none_iff (b : Byte) : standardTable.lookup b = none ↔ b ∈ freeBytes := by
  revert b
  decide +kernel

/-- A free byte starts no standard and no 65C02 instruction. -/
theorem lookup_of_free {b : Byte} (h : b ∈ freeBytes) : standardTable.lookup b = none := (lookup_eq_none_iff b).mpr h

/-- A byte with a row decodes by it, in every machine. -/
theorem decode_of_lookup {op : Byte} {mk : Window → Instr} (h : standardTable.lookup op = some mk) (e : ExtOpcodes)
    {w : Window} (hw : w.b0 = op) : decode e w = .instr (mk w) := by
  simp only [decode, decodeStandard, hw, h, Option.map_some]

/-- An admissible map has no repeated byte and only free bytes. -/
theorem ExtOpcodes.wf_iff (e : ExtOpcodes) : e.wf = true ↔ e.bytes.Nodup ∧ ∀ b ∈ e.bytes, b ∈ freeBytes := by
  rw [ExtOpcodes.wf, Bool.and_eq_true, decide_eq_true_iff]
  simp only [List.all_eq_true, List.contains_iff_mem]

/-- The place of a family in the list of bytes. -/
def Family.index : Family → Nat
  | .xtop1 => 0
  | .xtop2 => 1
  | .xtop3 => 2
  | .xtop1Trx => 3
  | .xtop1Math => 4
  | .xtop2Math => 5
  | .xtop3Math => 6
  | .xtop1Stor => 7
  | .xtop2Stor => 8
  | .xtop3Stor => 9

theorem ExtOpcodes.bytes_index (e : ExtOpcodes) (f : Family) : e.bytes[f.index]? = some (e.byte f) := by
  cases f <;> rfl

theorem ExtOpcodes.byte_mem (e : ExtOpcodes) (f : Family) : e.byte f ∈ e.bytes :=
  List.mem_of_getElem? (e.bytes_index f)

/-- Every family byte of an admissible map is free. -/
theorem ExtOpcodes.byte_free {e : ExtOpcodes} (h : e.wf = true) (f : Family) : e.byte f ∈ freeBytes :=
  ((e.wf_iff).mp h).2 _ (e.byte_mem f)

/-- The byte a family was read from is its own. -/
theorem ExtOpcodes.byte_of_family? {e : ExtOpcodes} {b : Byte} {f : Family} (h : e.family? b = some f) :
    e.byte f = b := by
  simp only [ExtOpcodes.family?] at h
  repeat' split at h
  all_goals first
    | (injection h with h; subst h; exact Eq.symm (by assumption))
    | cases h

/-- A byte has no family exactly when it is no EXT_OPCODE byte. -/
theorem ExtOpcodes.family?_eq_none_iff {e : ExtOpcodes} {b : Byte} : e.family? b = none ↔ b ∉ e.bytes := by
  constructor
  · intro h
    simp only [ExtOpcodes.family?] at h
    repeat' split at h
    all_goals first
      | cases h; done
      | simp only [ExtOpcodes.bytes, List.mem_cons, List.not_mem_nil, not_or]; simp [*]
  · intro h
    cases hf : e.family? b with
    | none => rfl
    | some f => exact absurd (ExtOpcodes.byte_of_family? hf ▸ e.byte_mem f) h

/-- An admissible map names each family by its own byte. -/
theorem ExtOpcodes.family?_byte {e : ExtOpcodes} (h : e.wf = true) (f : Family) : e.family? (e.byte f) = some f := by
  cases hf : e.family? (e.byte f) with
  | none => exact absurd (e.byte_mem f) (ExtOpcodes.family?_eq_none_iff.mp hf)
  | some g =>
    have hb := ExtOpcodes.byte_of_family? hf
    have hi : f.index = g.index := by
      apply (List.getElem?_inj (by cases f <;> simp [ExtOpcodes.bytes, Family.index]) ((e.wf_iff).mp h).1).mp
      rw [e.bytes_index, e.bytes_index, hb]
    cases f <;> cases g <;> first | rfl | simp [Family.index] at hi

/-- A window that starts with a family byte decodes by that family's sub-decoder (R134, R136). -/
theorem decode_extension {e : ExtOpcodes} (h : e.wf = true) {f : Family} {w : Window} (hw : w.b0 = e.byte f) :
    decode e w = .instr (decodeExt f w) := by
  simp only [decode, decodeStandard, hw, lookup_of_free (e.byte_free h f), Option.map_none, e.family?_byte h f]

/-! ## Fields of a sub-byte (R137 to R140) -/

@[simp] theorem subTop_subByte (t : BitVec 2) (m l : BitVec 3) : subTop (subByte t m l) = t := by
  revert t m l
  decide +kernel

@[simp] theorem subMid_subByte (t : BitVec 2) (m l : BitVec 3) : subMid (subByte t m l) = m := by
  revert t m l
  decide +kernel

@[simp] theorem subLow_subByte (t : BitVec 2) (m l : BitVec 3) : subLow (subByte t m l) = l := by
  revert t m l
  decide +kernel

/-- A sub-byte is its three fields. -/
theorem subByte_fields (b : Byte) : subByte (subTop b) (subMid b) (subLow b) = b := by
  revert b
  decide +kernel

@[simp] theorem subByte_bit7 (t : BitVec 2) (m l : BitVec 3) : (subByte t m l)[7] = t[1] := by
  revert t m l
  decide +kernel

@[simp] theorem subByte_bit6 (t : BitVec 2) (m l : BitVec 3) : (subByte t m l)[6] = t[0] := by
  revert t m l
  decide +kernel

@[simp] theorem mathTop_bits (k s : Bool) : (mathTop k s)[1] = k ∧ (mathTop k s)[0] = s := by
  revert k s
  decide

/-! ## Constants and operand bytes (R121, R142) -/

theorem le16_bytes (v : Half) : v.extractLsb' 8 8 ++ v.extractLsb' 0 8 = v := by
  apply BitVec.eq_of_toNat_eq
  rw [BitVec.toNat_append, ← Nat.shiftLeft_add_eq_or_of_lt (v.extractLsb' 0 8).isLt]
  simp [Nat.shiftLeft_eq, Nat.shiftRight_eq_div_pow]
  omega

theorem le32_bytes (v : Slot) :
    (v.extractLsb' 24 8 ++ v.extractLsb' 16 8) ++ (v.extractLsb' 8 8 ++ v.extractLsb' 0 8) = v := by
  ext i hi
  simp only [BitVec.getElem_append, BitVec.getElem_extractLsb']
  repeat' split
  all_goals
    rw [BitVec.getLsbD_eq_getElem (by omega)]
    congr 1
    try omega

/-! ## EXT_OPCODE draws (R145) -/

/-- A draw without repetition from a list without repeats has no repeats, and its bytes are of the list. -/
theorem drawDistinct_nodup {avail : List Byte} {codes : List Nat} (h : avail.Nodup) (hl : codes.length ≤ avail.length) :
    (drawDistinct avail codes).Nodup ∧ (∀ b ∈ drawDistinct avail codes, b ∈ avail) ∧
      (drawDistinct avail codes).length = codes.length := by
  induction codes generalizing avail with
  | nil => simp [drawDistinct]
  | cons c cs ih =>
    simp only [List.length_cons] at hl
    have hk : c % avail.length < avail.length := Nat.mod_lt _ (by omega)
    obtain ⟨i1, i2, i3⟩ := ih (h.eraseIdx (c % avail.length)) (by rw [List.length_eraseIdx_of_lt hk]; omega)
    simp only [drawDistinct, List.getD_eq_getElem _ _ hk]
    refine ⟨List.nodup_cons.mpr ⟨fun hm => ?_, i1⟩, ?_, by simp [i3]⟩
    · have := i2 _ hm
      rw [List.mem_eraseIdx_iff_getElem] at this
      obtain ⟨j, hj, hne, he⟩ := this
      exact hne ((List.Nodup.getElem_inj_iff h).mp he)
    · intro b hb
      rcases List.mem_cons.mp hb with rfl | hb
      · exact List.getElem_mem hk
      · exact List.mem_of_mem_eraseIdx (i2 _ hb)

theorem freeBytes_length : freeBytes.length = 100 := by decide +kernel

theorem freeBytes_nodup : freeBytes.Nodup := by decide +kernel

/-- Whatever the ten codes are, the map they draw is admissible (R145). -/
theorem ExtOpcodes.ofCodes_wf (code : Nat → Nat) : (ExtOpcodes.ofCodes code).wf = true := by
  obtain ⟨h1, h2, h3⟩ := drawDistinct_nodup
    (codes := [code 0, code 1, code 2, code 3, code 4, code 5, code 6, code 7, code 8, code 9]) freeBytes_nodup
    (by rw [freeBytes_length]; simp)
  unfold ExtOpcodes.ofCodes
  generalize drawDistinct freeBytes _ = l at h1 h2 h3 ⊢
  match l, h3 with
  | [a, b, c, d, e, f, g, h, i, j], _ =>
    exact (ExtOpcodes.wf_iff _).mpr ⟨h1, h2⟩

end Sys2Proof
end

