-- ==== Sys2Proof/Laws/Flags.lean ====
section
/-! SUPPORT. The flag computations and results as statements about numbers, the form in which the spec gives them. -/

namespace Sys2Proof.Machine

/-- `SetNZ` at any width (R195): N says the value reaches half of the range, Z that it is 0. -/
theorem Flags.setNZ_toNat {w : Nat} (f : Flags) (v : BitVec w) :
    f.setNZ v = { f with n := decide (2 ^ (w - 1) ≤ v.toNat), z := decide (v.toNat = 0) } := by
  simp only [Flags.setNZ, BitVec.msb_eq_decide, ← BitVec.toNat_inj]
  simp

/-- A compare (R247, R248, R249). -/
theorem Flags.setCompare_toNat (f : Flags) (r m : Byte) :
    f.setCompare r m =
      { f with
        c := decide (m.toNat ≤ r.toNat)
        z := decide (r.toNat = m.toNat)
        n := decide (128 ≤ (r.toNat + 256 - m.toNat) % 256) } := by
  simp only [Flags.setCompare, ← BitVec.toNat_inj, BitVec.msb_eq_decide, BitVec.toNat_sub]
  congr 2
  have := m.isLt
  simp
  omega

/-- ADC with D = 0 (R240). -/
theorem adcBinary_toNat (a m : Byte) (c : Bool) :
    adcBinary a m c =
      { value := BitVec.ofNat 8 (a.toNat + m.toNat + c.toNat)
        c := decide (256 ≤ a.toNat + m.toNat + c.toNat)
        z := decide ((a.toNat + m.toNat + c.toNat) % 256 = 0)
        n := decide (128 ≤ (a.toNat + m.toNat + c.toNat) % 256) } := by
  simp [adcBinary, BitVec.msb_eq_decide, ← BitVec.toNat_inj]

/-- SBC with D = 0 (R241), the difference counted up from 256. -/
theorem sbcBinary_toNat (a m : Byte) (c : Bool) :
    sbcBinary a m c =
      { value := BitVec.ofNat 8 (a.toNat + 256 - m.toNat - (1 - c.toNat))
        c := decide (256 ≤ a.toNat + 256 - m.toNat - (1 - c.toNat))
        z := decide ((a.toNat + 256 - m.toNat - (1 - c.toNat)) % 256 = 0)
        n := decide (128 ≤ (a.toNat + 256 - m.toNat - (1 - c.toNat)) % 256) } := by
  have ha := a.isLt
  have hm := m.isLt
  have hc : c.toNat ≤ 1 := by cases c <;> simp
  have e : BitVec.ofInt 8 ((a.toNat : Int) - m.toNat - (1 - c.toNat)) =
      BitVec.ofNat 8 (a.toNat + 256 - m.toNat - (1 - c.toNat)) := by
    apply BitVec.eq_of_toNat_eq
    simp only [BitVec.toNat_ofInt, BitVec.toNat_ofNat]
    omega
  simp only [sbcBinary, e]
  simp [BitVec.msb_eq_decide, ← BitVec.toNat_inj]
  omega

/-- MATH add (R390). -/
theorem mathAdd_toNat {w : Nat} (d s k : BitVec w) :
    mathAdd d s k =
      { value := BitVec.ofNat w (d.toNat + (s.toNat + k.toNat))
        c := decide (2 ^ w ≤ d.toNat + (s.toNat + k.toNat)) } := by
  simp [mathAdd, Nat.add_assoc]

/-- MATH subtract (R390), the difference counted up from twice the range. -/
theorem mathSub_toNat {w : Nat} (d s k : BitVec w) :
    mathSub d s k =
      { value := BitVec.ofNat w (d.toNat + 2 * 2 ^ w - (s.toNat + k.toNat))
        c := decide (s.toNat + k.toNat ≤ d.toNat) } := by
  have hd := d.isLt
  have hs := s.isLt
  have hk := k.isLt
  have e : ((d.toNat + 2 * 2 ^ w - (s.toNat + k.toNat) : Nat) : Int) =
      ((d.toNat : Int) - s.toNat - k.toNat) + 2 * ((2 ^ w : Nat) : Int) := by
    omega
  have v : BitVec.ofInt w ((d.toNat : Int) - s.toNat - k.toNat) =
      BitVec.ofNat w (d.toNat + 2 * 2 ^ w - (s.toNat + k.toNat)) := by
    apply BitVec.eq_of_toNat_eq
    have := congrArg (· % ((2 ^ w : Nat) : Int)) e
    simp only [Int.add_mul_emod_self_right] at this
    rw [BitVec.toNat_ofInt, BitVec.toNat_ofNat, ← this]
    norm_cast
  simp only [mathSub, v]
  congr 1
  apply decide_eq_decide.mpr
  omega

/-- The flags of a MATH result that is a number narrowed to the width (R390). -/
theorem Flags.setMath_ofNat {w : Nat} (f : Flags) (t : Nat) (c : Bool) :
    f.setMath { value := BitVec.ofNat w t, c := c } =
      { f with
        c := c
        z := decide (t % 2 ^ w = 0)
        n := decide (2 ^ (w - 1) ≤ t % 2 ^ w)
        v := false } := by
  simp only [Flags.setMath, BitVec.msb_eq_decide, BitVec.toNat_ofNat, ← BitVec.toNat_inj]
  simp

end Sys2Proof.Machine
end

