-- ==== Sys2Proof/Laws/State.lean ====
section
/-! SUPPORT. One lemma for each field and each update of State, so that no proof unfolds a record update; then what
the reads of the state see of an update that does not touch what they read. -/

namespace Sys2Proof.Machine

variable (s : State)

@[simp] theorem State.advance_gpr (n : Nat) : (s.advance n).gpr = s.gpr := rfl
@[simp] theorem State.advance_pc (n : Nat) : (s.advance n).pc = s.pc + BitVec.ofNat 16 n := rfl
@[simp] theorem State.advance_sp (n : Nat) : (s.advance n).sp = s.sp := rfl
@[simp] theorem State.advance_ps (n : Nat) : (s.advance n).ps = s.ps := rfl
@[simp] theorem State.advance_ds (n : Nat) : (s.advance n).ds = s.ds := rfl
@[simp] theorem State.advance_ss (n : Nat) : (s.advance n).ss = s.ss := rfl
@[simp] theorem State.advance_flags (n : Nat) : (s.advance n).flags = s.flags := rfl
@[simp] theorem State.advance_run (n : Nat) : (s.advance n).run = s.run := rfl
@[simp] theorem State.advance_cycles (n : Nat) : (s.advance n).cycles = s.cycles := rfl
@[simp] theorem State.advance_mem (n : Nat) : (s.advance n).mem = s.mem := rfl
@[simp] theorem State.advance_lastIllegal (n : Nat) : (s.advance n).lastIllegal = s.lastIllegal := rfl
@[simp] theorem State.advance_config (n : Nat) : (s.advance n).config = s.config := rfl
@[simp] theorem State.advance_params (n : Nat) : (s.advance n).params = s.params := rfl
@[simp] theorem State.advance_resetDraws (n : Nat) : (s.advance n).resetDraws = s.resetDraws := rfl

@[simp] theorem State.setPc_gpr (v : Half) : (s.setPc v).gpr = s.gpr := rfl
@[simp] theorem State.setPc_pc (v : Half) : (s.setPc v).pc = v := rfl
@[simp] theorem State.setPc_sp (v : Half) : (s.setPc v).sp = s.sp := rfl
@[simp] theorem State.setPc_ps (v : Half) : (s.setPc v).ps = s.ps := rfl
@[simp] theorem State.setPc_ds (v : Half) : (s.setPc v).ds = s.ds := rfl
@[simp] theorem State.setPc_ss (v : Half) : (s.setPc v).ss = s.ss := rfl
@[simp] theorem State.setPc_flags (v : Half) : (s.setPc v).flags = s.flags := rfl
@[simp] theorem State.setPc_run (v : Half) : (s.setPc v).run = s.run := rfl
@[simp] theorem State.setPc_cycles (v : Half) : (s.setPc v).cycles = s.cycles := rfl
@[simp] theorem State.setPc_mem (v : Half) : (s.setPc v).mem = s.mem := rfl
@[simp] theorem State.setPc_lastIllegal (v : Half) : (s.setPc v).lastIllegal = s.lastIllegal := rfl
@[simp] theorem State.setPc_config (v : Half) : (s.setPc v).config = s.config := rfl
@[simp] theorem State.setPc_params (v : Half) : (s.setPc v).params = s.params := rfl
@[simp] theorem State.setPc_resetDraws (v : Half) : (s.setPc v).resetDraws = s.resetDraws := rfl

@[simp] theorem State.setSp_gpr (v : Half) : (s.setSp v).gpr = s.gpr := rfl
@[simp] theorem State.setSp_pc (v : Half) : (s.setSp v).pc = s.pc := rfl
@[simp] theorem State.setSp_sp (v : Half) : (s.setSp v).sp = v := rfl
@[simp] theorem State.setSp_ps (v : Half) : (s.setSp v).ps = s.ps := rfl
@[simp] theorem State.setSp_ds (v : Half) : (s.setSp v).ds = s.ds := rfl
@[simp] theorem State.setSp_ss (v : Half) : (s.setSp v).ss = s.ss := rfl
@[simp] theorem State.setSp_flags (v : Half) : (s.setSp v).flags = s.flags := rfl
@[simp] theorem State.setSp_run (v : Half) : (s.setSp v).run = s.run := rfl
@[simp] theorem State.setSp_cycles (v : Half) : (s.setSp v).cycles = s.cycles := rfl
@[simp] theorem State.setSp_mem (v : Half) : (s.setSp v).mem = s.mem := rfl
@[simp] theorem State.setSp_lastIllegal (v : Half) : (s.setSp v).lastIllegal = s.lastIllegal := rfl
@[simp] theorem State.setSp_config (v : Half) : (s.setSp v).config = s.config := rfl
@[simp] theorem State.setSp_params (v : Half) : (s.setSp v).params = s.params := rfl
@[simp] theorem State.setSp_resetDraws (v : Half) : (s.setSp v).resetDraws = s.resetDraws := rfl

@[simp] theorem State.setFlags_gpr (f : Flags) : (s.setFlags f).gpr = s.gpr := rfl
@[simp] theorem State.setFlags_pc (f : Flags) : (s.setFlags f).pc = s.pc := rfl
@[simp] theorem State.setFlags_sp (f : Flags) : (s.setFlags f).sp = s.sp := rfl
@[simp] theorem State.setFlags_ps (f : Flags) : (s.setFlags f).ps = s.ps := rfl
@[simp] theorem State.setFlags_ds (f : Flags) : (s.setFlags f).ds = s.ds := rfl
@[simp] theorem State.setFlags_ss (f : Flags) : (s.setFlags f).ss = s.ss := rfl
@[simp] theorem State.setFlags_flags (f : Flags) : (s.setFlags f).flags = f := rfl
@[simp] theorem State.setFlags_run (f : Flags) : (s.setFlags f).run = s.run := rfl
@[simp] theorem State.setFlags_cycles (f : Flags) : (s.setFlags f).cycles = s.cycles := rfl
@[simp] theorem State.setFlags_mem (f : Flags) : (s.setFlags f).mem = s.mem := rfl
@[simp] theorem State.setFlags_lastIllegal (f : Flags) : (s.setFlags f).lastIllegal = s.lastIllegal := rfl
@[simp] theorem State.setFlags_config (f : Flags) : (s.setFlags f).config = s.config := rfl
@[simp] theorem State.setFlags_params (f : Flags) : (s.setFlags f).params = s.params := rfl
@[simp] theorem State.setFlags_resetDraws (f : Flags) : (s.setFlags f).resetDraws = s.resetDraws := rfl

@[simp] theorem State.setNZ_gpr {w : Nat} (v : BitVec w) : (s.setNZ v).gpr = s.gpr := rfl
@[simp] theorem State.setNZ_pc {w : Nat} (v : BitVec w) : (s.setNZ v).pc = s.pc := rfl
@[simp] theorem State.setNZ_sp {w : Nat} (v : BitVec w) : (s.setNZ v).sp = s.sp := rfl
@[simp] theorem State.setNZ_ps {w : Nat} (v : BitVec w) : (s.setNZ v).ps = s.ps := rfl
@[simp] theorem State.setNZ_ds {w : Nat} (v : BitVec w) : (s.setNZ v).ds = s.ds := rfl
@[simp] theorem State.setNZ_ss {w : Nat} (v : BitVec w) : (s.setNZ v).ss = s.ss := rfl
@[simp] theorem State.setNZ_flags {w : Nat} (v : BitVec w) : (s.setNZ v).flags = s.flags.setNZ v := rfl
@[simp] theorem State.setNZ_run {w : Nat} (v : BitVec w) : (s.setNZ v).run = s.run := rfl
@[simp] theorem State.setNZ_cycles {w : Nat} (v : BitVec w) : (s.setNZ v).cycles = s.cycles := rfl
@[simp] theorem State.setNZ_mem {w : Nat} (v : BitVec w) : (s.setNZ v).mem = s.mem := rfl
@[simp] theorem State.setNZ_lastIllegal {w : Nat} (v : BitVec w) : (s.setNZ v).lastIllegal = s.lastIllegal := rfl
@[simp] theorem State.setNZ_config {w : Nat} (v : BitVec w) : (s.setNZ v).config = s.config := rfl
@[simp] theorem State.setNZ_params {w : Nat} (v : BitVec w) : (s.setNZ v).params = s.params := rfl
@[simp] theorem State.setNZ_resetDraws {w : Nat} (v : BitVec w) : (s.setNZ v).resetDraws = s.resetDraws := rfl

@[simp] theorem State.setView_pc {w : Nat} (n : Nat) (v : BitVec w) : (s.setView n v).pc = s.pc := rfl
@[simp] theorem State.setView_sp {w : Nat} (n : Nat) (v : BitVec w) : (s.setView n v).sp = s.sp := rfl
@[simp] theorem State.setView_ps {w : Nat} (n : Nat) (v : BitVec w) : (s.setView n v).ps = s.ps := rfl
@[simp] theorem State.setView_ds {w : Nat} (n : Nat) (v : BitVec w) : (s.setView n v).ds = s.ds := rfl
@[simp] theorem State.setView_ss {w : Nat} (n : Nat) (v : BitVec w) : (s.setView n v).ss = s.ss := rfl
@[simp] theorem State.setView_flags {w : Nat} (n : Nat) (v : BitVec w) : (s.setView n v).flags = s.flags := rfl
@[simp] theorem State.setView_run {w : Nat} (n : Nat) (v : BitVec w) : (s.setView n v).run = s.run := rfl
@[simp] theorem State.setView_cycles {w : Nat} (n : Nat) (v : BitVec w) : (s.setView n v).cycles = s.cycles := rfl
@[simp] theorem State.setView_mem {w : Nat} (n : Nat) (v : BitVec w) : (s.setView n v).mem = s.mem := rfl
@[simp] theorem State.setView_lastIllegal {w : Nat} (n : Nat) (v : BitVec w) : (s.setView n v).lastIllegal = s.lastIllegal := rfl
@[simp] theorem State.setView_config {w : Nat} (n : Nat) (v : BitVec w) : (s.setView n v).config = s.config := rfl
@[simp] theorem State.setView_params {w : Nat} (n : Nat) (v : BitVec w) : (s.setView n v).params = s.params := rfl
@[simp] theorem State.setView_resetDraws {w : Nat} (n : Nat) (v : BitVec w) : (s.setView n v).resetDraws = s.resetDraws := rfl

@[simp] theorem State.writeByte_gpr (g : Byte) (o : Half) (v : Byte) : (s.writeByte g o v).gpr = s.gpr := rfl
@[simp] theorem State.writeByte_pc (g : Byte) (o : Half) (v : Byte) : (s.writeByte g o v).pc = s.pc := rfl
@[simp] theorem State.writeByte_sp (g : Byte) (o : Half) (v : Byte) : (s.writeByte g o v).sp = s.sp := rfl
@[simp] theorem State.writeByte_ps (g : Byte) (o : Half) (v : Byte) : (s.writeByte g o v).ps = s.ps := rfl
@[simp] theorem State.writeByte_ds (g : Byte) (o : Half) (v : Byte) : (s.writeByte g o v).ds = s.ds := rfl
@[simp] theorem State.writeByte_ss (g : Byte) (o : Half) (v : Byte) : (s.writeByte g o v).ss = s.ss := rfl
@[simp] theorem State.writeByte_flags (g : Byte) (o : Half) (v : Byte) : (s.writeByte g o v).flags = s.flags := rfl
@[simp] theorem State.writeByte_run (g : Byte) (o : Half) (v : Byte) : (s.writeByte g o v).run = s.run := rfl
@[simp] theorem State.writeByte_cycles (g : Byte) (o : Half) (v : Byte) : (s.writeByte g o v).cycles = s.cycles := rfl
@[simp] theorem State.writeByte_mem (g : Byte) (o : Half) (v : Byte) : (s.writeByte g o v).mem = s.mem.write (addr g o) v := rfl
@[simp] theorem State.writeByte_lastIllegal (g : Byte) (o : Half) (v : Byte) : (s.writeByte g o v).lastIllegal = s.lastIllegal := rfl
@[simp] theorem State.writeByte_config (g : Byte) (o : Half) (v : Byte) : (s.writeByte g o v).config = s.config := rfl
@[simp] theorem State.writeByte_params (g : Byte) (o : Half) (v : Byte) : (s.writeByte g o v).params = s.params := rfl
@[simp] theorem State.writeByte_resetDraws (g : Byte) (o : Half) (v : Byte) : (s.writeByte g o v).resetDraws = s.resetDraws := rfl

@[simp] theorem State.charge_gpr (k : Nat) : (s.charge k).gpr = s.gpr := rfl
@[simp] theorem State.charge_pc (k : Nat) : (s.charge k).pc = s.pc := rfl
@[simp] theorem State.charge_sp (k : Nat) : (s.charge k).sp = s.sp := rfl
@[simp] theorem State.charge_ps (k : Nat) : (s.charge k).ps = s.ps := rfl
@[simp] theorem State.charge_ds (k : Nat) : (s.charge k).ds = s.ds := rfl
@[simp] theorem State.charge_ss (k : Nat) : (s.charge k).ss = s.ss := rfl
@[simp] theorem State.charge_flags (k : Nat) : (s.charge k).flags = s.flags := rfl
@[simp] theorem State.charge_run (k : Nat) : (s.charge k).run = s.run := rfl
@[simp] theorem State.charge_cycles (k : Nat) : (s.charge k).cycles = s.cycles + k := rfl
@[simp] theorem State.charge_mem (k : Nat) : (s.charge k).mem = s.mem := rfl
@[simp] theorem State.charge_lastIllegal (k : Nat) : (s.charge k).lastIllegal = s.lastIllegal := rfl
@[simp] theorem State.charge_config (k : Nat) : (s.charge k).config = s.config := rfl
@[simp] theorem State.charge_params (k : Nat) : (s.charge k).params = s.params := rfl
@[simp] theorem State.charge_resetDraws (k : Nat) : (s.charge k).resetDraws = s.resetDraws := rfl

@[simp] theorem State.push8_gpr (v : Byte) : (s.push8 v).gpr = s.gpr := rfl
@[simp] theorem State.push8_pc (v : Byte) : (s.push8 v).pc = s.pc := rfl
@[simp] theorem State.push8_sp (v : Byte) : (s.push8 v).sp = spPushed s.sp := rfl
@[simp] theorem State.push8_ps (v : Byte) : (s.push8 v).ps = s.ps := rfl
@[simp] theorem State.push8_ds (v : Byte) : (s.push8 v).ds = s.ds := rfl
@[simp] theorem State.push8_ss (v : Byte) : (s.push8 v).ss = s.ss := rfl
@[simp] theorem State.push8_flags (v : Byte) : (s.push8 v).flags = s.flags := rfl
@[simp] theorem State.push8_run (v : Byte) : (s.push8 v).run = s.run := rfl
@[simp] theorem State.push8_cycles (v : Byte) : (s.push8 v).cycles = s.cycles := rfl
@[simp] theorem State.push8_mem (v : Byte) : (s.push8 v).mem = s.mem.write (addr s.ss s.sp) v := rfl
@[simp] theorem State.push8_lastIllegal (v : Byte) : (s.push8 v).lastIllegal = s.lastIllegal := rfl
@[simp] theorem State.push8_config (v : Byte) : (s.push8 v).config = s.config := rfl
@[simp] theorem State.push8_params (v : Byte) : (s.push8 v).params = s.params := rfl
@[simp] theorem State.push8_resetDraws (v : Byte) : (s.push8 v).resetDraws = s.resetDraws := rfl

@[simp] theorem State.popped_gpr : (s.popped).gpr = s.gpr := rfl
@[simp] theorem State.popped_pc : (s.popped).pc = s.pc := rfl
@[simp] theorem State.popped_sp : (s.popped).sp = spPopped s.sp := rfl
@[simp] theorem State.popped_ps : (s.popped).ps = s.ps := rfl
@[simp] theorem State.popped_ds : (s.popped).ds = s.ds := rfl
@[simp] theorem State.popped_ss : (s.popped).ss = s.ss := rfl
@[simp] theorem State.popped_flags : (s.popped).flags = s.flags := rfl
@[simp] theorem State.popped_run : (s.popped).run = s.run := rfl
@[simp] theorem State.popped_cycles : (s.popped).cycles = s.cycles := rfl
@[simp] theorem State.popped_mem : (s.popped).mem = s.mem := rfl
@[simp] theorem State.popped_lastIllegal : (s.popped).lastIllegal = s.lastIllegal := rfl
@[simp] theorem State.popped_config : (s.popped).config = s.config := rfl
@[simp] theorem State.popped_params : (s.popped).params = s.params := rfl
@[simp] theorem State.popped_resetDraws : (s.popped).resetDraws = s.resetDraws := rfl

@[simp] theorem State.raiseIllegal_gpr (c : IllegalCause) (bs : List Byte) : (s.raiseIllegal c bs).gpr = s.gpr := rfl
@[simp] theorem State.raiseIllegal_pc (c : IllegalCause) (bs : List Byte) : (s.raiseIllegal c bs).pc = s.pc + BitVec.ofNat 16 bs.length := rfl
@[simp] theorem State.raiseIllegal_sp (c : IllegalCause) (bs : List Byte) : (s.raiseIllegal c bs).sp = s.sp := rfl
@[simp] theorem State.raiseIllegal_ps (c : IllegalCause) (bs : List Byte) : (s.raiseIllegal c bs).ps = s.ps := rfl
@[simp] theorem State.raiseIllegal_ds (c : IllegalCause) (bs : List Byte) : (s.raiseIllegal c bs).ds = s.ds := rfl
@[simp] theorem State.raiseIllegal_ss (c : IllegalCause) (bs : List Byte) : (s.raiseIllegal c bs).ss = s.ss := rfl
@[simp] theorem State.raiseIllegal_flags (c : IllegalCause) (bs : List Byte) : (s.raiseIllegal c bs).flags = s.flags := rfl
@[simp] theorem State.raiseIllegal_run (c : IllegalCause) (bs : List Byte) : (s.raiseIllegal c bs).run = Configuration.illegalRun s.config s.run := rfl
@[simp] theorem State.raiseIllegal_cycles (c : IllegalCause) (bs : List Byte) : (s.raiseIllegal c bs).cycles = s.cycles := rfl
@[simp] theorem State.raiseIllegal_mem (c : IllegalCause) (bs : List Byte) : (s.raiseIllegal c bs).mem = s.mem := rfl
@[simp] theorem State.raiseIllegal_lastIllegal (c : IllegalCause) (bs : List Byte) : (s.raiseIllegal c bs).lastIllegal = some { cause := c, seg := s.ps, pc := s.pc, bytes := bs } := rfl
@[simp] theorem State.raiseIllegal_config (c : IllegalCause) (bs : List Byte) : (s.raiseIllegal c bs).config = s.config := rfl
@[simp] theorem State.raiseIllegal_params (c : IllegalCause) (bs : List Byte) : (s.raiseIllegal c bs).params = s.params := rfl
@[simp] theorem State.raiseIllegal_resetDraws (c : IllegalCause) (bs : List Byte) : (s.raiseIllegal c bs).resetDraws = s.resetDraws := rfl

@[simp] theorem State.setSeg_gpr (g : SegReg) (v : Byte) : (s.setSeg g v).gpr = s.gpr := by cases g <;> rfl
@[simp] theorem State.setSeg_pc (g : SegReg) (v : Byte) : (s.setSeg g v).pc = s.pc := by cases g <;> rfl
@[simp] theorem State.setSeg_sp (g : SegReg) (v : Byte) : (s.setSeg g v).sp = s.sp := by cases g <;> rfl
@[simp] theorem State.setSeg_ps_ps (v : Byte) : (s.setSeg .ps v).ps = v := rfl
@[simp] theorem State.setSeg_ds_ps (v : Byte) : (s.setSeg .ds v).ps = s.ps := rfl
@[simp] theorem State.setSeg_ss_ps (v : Byte) : (s.setSeg .ss v).ps = s.ps := rfl
@[simp] theorem State.setSeg_ps_ds (v : Byte) : (s.setSeg .ps v).ds = s.ds := rfl
@[simp] theorem State.setSeg_ds_ds (v : Byte) : (s.setSeg .ds v).ds = v := rfl
@[simp] theorem State.setSeg_ss_ds (v : Byte) : (s.setSeg .ss v).ds = s.ds := rfl
@[simp] theorem State.setSeg_ps_ss (v : Byte) : (s.setSeg .ps v).ss = s.ss := rfl
@[simp] theorem State.setSeg_ds_ss (v : Byte) : (s.setSeg .ds v).ss = s.ss := rfl
@[simp] theorem State.setSeg_ss_ss (v : Byte) : (s.setSeg .ss v).ss = v := rfl
@[simp] theorem State.setSeg_flags (g : SegReg) (v : Byte) : (s.setSeg g v).flags = s.flags := by cases g <;> rfl
@[simp] theorem State.setSeg_run (g : SegReg) (v : Byte) : (s.setSeg g v).run = s.run := by cases g <;> rfl
@[simp] theorem State.setSeg_cycles (g : SegReg) (v : Byte) : (s.setSeg g v).cycles = s.cycles := by cases g <;> rfl
@[simp] theorem State.setSeg_mem (g : SegReg) (v : Byte) : (s.setSeg g v).mem = s.mem := by cases g <;> rfl
@[simp] theorem State.setSeg_lastIllegal (g : SegReg) (v : Byte) : (s.setSeg g v).lastIllegal = s.lastIllegal := by cases g <;> rfl
@[simp] theorem State.setSeg_config (g : SegReg) (v : Byte) : (s.setSeg g v).config = s.config := by cases g <;> rfl
@[simp] theorem State.setSeg_params (g : SegReg) (v : Byte) : (s.setSeg g v).params = s.params := by cases g <;> rfl
@[simp] theorem State.setSeg_resetDraws (g : SegReg) (v : Byte) : (s.setSeg g v).resetDraws = s.resetDraws := by cases g <;> rfl

@[simp] theorem State.advance_view (n : Nat) (w' m : Nat) : (s.advance n).view w' m = s.view w' m := rfl
@[simp] theorem State.advance_readByte (n : Nat) (h : Byte) (p : Half) : (s.advance n).readByte h p = s.readByte h p := rfl
@[simp] theorem State.setPc_view (v : Half) (w' m : Nat) : (s.setPc v).view w' m = s.view w' m := rfl
@[simp] theorem State.setPc_readByte (v : Half) (h : Byte) (p : Half) : (s.setPc v).readByte h p = s.readByte h p := rfl
@[simp] theorem State.setSp_view (v : Half) (w' m : Nat) : (s.setSp v).view w' m = s.view w' m := rfl
@[simp] theorem State.setSp_readByte (v : Half) (h : Byte) (p : Half) : (s.setSp v).readByte h p = s.readByte h p := rfl
@[simp] theorem State.setFlags_view (f : Flags) (w' m : Nat) : (s.setFlags f).view w' m = s.view w' m := rfl
@[simp] theorem State.setFlags_readByte (f : Flags) (h : Byte) (p : Half) : (s.setFlags f).readByte h p = s.readByte h p := rfl
@[simp] theorem State.setNZ_view {w : Nat} (v : BitVec w) (w' m : Nat) : (s.setNZ v).view w' m = s.view w' m := rfl
@[simp] theorem State.setNZ_readByte {w : Nat} (v : BitVec w) (h : Byte) (p : Half) : (s.setNZ v).readByte h p = s.readByte h p := rfl
@[simp] theorem State.setView_readByte {w : Nat} (n : Nat) (v : BitVec w) (h : Byte) (p : Half) : (s.setView n v).readByte h p = s.readByte h p := rfl
@[simp] theorem State.writeByte_view (g : Byte) (o : Half) (v : Byte) (w' m : Nat) : (s.writeByte g o v).view w' m = s.view w' m := rfl
@[simp] theorem State.charge_view (k : Nat) (w' m : Nat) : (s.charge k).view w' m = s.view w' m := rfl
@[simp] theorem State.charge_readByte (k : Nat) (h : Byte) (p : Half) : (s.charge k).readByte h p = s.readByte h p := rfl
@[simp] theorem State.push8_view (v : Byte) (w' m : Nat) : (s.push8 v).view w' m = s.view w' m := rfl
@[simp] theorem State.popped_view (w' m : Nat) : (s.popped).view w' m = s.view w' m := rfl
@[simp] theorem State.popped_readByte (h : Byte) (p : Half) : (s.popped).readByte h p = s.readByte h p := rfl
@[simp] theorem State.raiseIllegal_view (c : IllegalCause) (bs : List Byte) (w' m : Nat) : (s.raiseIllegal c bs).view w' m = s.view w' m := rfl
@[simp] theorem State.raiseIllegal_readByte (c : IllegalCause) (bs : List Byte) (h : Byte) (p : Half) : (s.raiseIllegal c bs).readByte h p = s.readByte h p := rfl
@[simp] theorem State.setSeg_view (g : SegReg) (v : Byte) (w' m : Nat) : (s.setSeg g v).view w' m = s.view w' m := by
  cases g <;> rfl
@[simp] theorem State.setSeg_readByte (g : SegReg) (v : Byte) (h : Byte) (p : Half) :
    (s.setSeg g v).readByte h p = s.readByte h p := by
  cases g <;> rfl

end Sys2Proof.Machine
end

