-- ==== Sys2Proof/Laws/Memory.lean ====
section
/-! SUPPORT. The laws of memory: reads after writes, the canonical form, and what the stack and the multi-byte
accesses do to it. -/

namespace Sys2Proof.Machine

/-- Two addresses have the same key only if they are the same address (R80). -/
theorem addr_inj {g h : Byte} {o p : Half} : addr g o = addr h p ↔ g = h ∧ o = p := by
  constructor
  · intro e
    have ho := o.isLt
    have hp := p.isLt
    simp only [addr] at e
    exact ⟨BitVec.eq_of_toNat_eq (by omega), BitVec.eq_of_toNat_eq (by omega)⟩
  · rintro ⟨rfl, rfl⟩
    rfl

/-- Every address is inside the 256 segments (R80). -/
theorem addr_lt (g : Byte) (o : Half) : addr g o < 16777216 := by
  have hg := g.isLt
  have ho := o.isLt
  simp only [addr]
  omega

/-- A weaker lower bound is also one. -/
theorem Memory.wfFrom_mono {m : Memory} {lo lo' : Nat} (h : Memory.wfFrom lo m = true) (hle : lo' ≤ lo) :
    Memory.wfFrom lo' m = true := by
  cases m with
  | nil => rfl
  | cons c m =>
    simp only [Memory.wfFrom, Bool.and_eq_true, decide_eq_true_eq] at h ⊢
    exact ⟨⟨⟨by omega, h.1.1.2⟩, h.1.2⟩, h.2⟩

/-- Below its lowest address a canonical memory reads 0. -/
theorem Memory.read_below {m : Memory} {lo x : Nat} (h : Memory.wfFrom lo m = true) (hx : x < lo) :
    Memory.read m x = 0 := by
  induction m generalizing lo with
  | nil => rfl
  | cons c m ih =>
    simp only [Memory.wfFrom, Bool.and_eq_true, decide_eq_true_eq] at h
    simp only [Memory.read]
    rw [if_neg (by omega)]
    exact ih h.2 (by omega)

/-- A write keeps the canonical form. -/
theorem Memory.write_wfFrom {m : Memory} {lo x : Nat} {v : Byte} (h : Memory.wfFrom lo m = true) (hlo : lo ≤ x)
    (hx : x < 16777216) : Memory.wfFrom lo (Memory.write m x v) = true := by
  induction m generalizing lo with
  | nil =>
    simp only [Memory.write]
    split
    · rfl
    · simp only [Memory.wfFrom, Bool.and_eq_true, decide_eq_true_eq]
      exact ⟨⟨⟨hlo, hx⟩, by assumption⟩, trivial⟩
  | cons c m ih =>
    have h' := h
    simp only [Memory.wfFrom, Bool.and_eq_true, decide_eq_true_eq] at h
    obtain ⟨⟨⟨h1, h2⟩, h3⟩, h4⟩ := h
    simp only [Memory.write]
    split
    · split
      · exact h'
      · simp only [Memory.wfFrom, Bool.and_eq_true, decide_eq_true_eq]
        exact ⟨⟨⟨hlo, hx⟩, by assumption⟩, ⟨⟨by omega, h2⟩, h3⟩, h4⟩
    · split
      · split
        · exact Memory.wfFrom_mono h4 (by omega)
        · simp only [Memory.wfFrom, Bool.and_eq_true, decide_eq_true_eq]
          subst_vars
          exact ⟨⟨⟨hlo, hx⟩, by assumption⟩, h4⟩
      · simp only [Memory.wfFrom, Bool.and_eq_true, decide_eq_true_eq]
        exact ⟨⟨⟨h1, h2⟩, h3⟩, ih h4 (by omega)⟩

/-- A write of one byte keeps the canonical form (R82). -/
theorem Memory.write_wf {m : Memory} (h : m.wf = true) (g : Byte) (o : Half) (v : Byte) :
    (Memory.write m (addr g o) v).wf = true :=
  Memory.write_wfFrom h (Nat.zero_le _) (addr_lt g o)

/-- A read elsewhere does not see a write. -/
theorem Memory.read_write_other (m : Memory) {x y : Nat} (v : Byte) (h : y ≠ x) :
    Memory.read (Memory.write m x v) y = Memory.read m y := by
  induction m with
  | nil =>
    simp only [Memory.write]
    split <;> simp [Memory.read, h]
  | cons c m ih =>
    simp only [Memory.write]
    split
    · split <;> simp [Memory.read, h]
    · split
      · split <;> simp_all [Memory.read]
      · simp [Memory.read, ih]

/-- A read of the written address gives the written byte, in a canonical memory. -/
theorem Memory.read_write_same {m : Memory} {lo x : Nat} {v : Byte} (h : Memory.wfFrom lo m = true) :
    Memory.read (Memory.write m x v) x = v := by
  induction m generalizing lo with
  | nil =>
    simp only [Memory.write]
    split <;> simp_all [Memory.read, Memory.unlisted]
  | cons c m ih =>
    simp only [Memory.wfFrom, Bool.and_eq_true, decide_eq_true_eq] at h
    obtain ⟨⟨⟨h1, h2⟩, h3⟩, h4⟩ := h
    simp only [Memory.write]
    split
    · split
      · rename_i hlt hv
        subst hv
        simp only [Memory.read]
        rw [if_neg (by omega)]
        exact Memory.read_below h4 (by omega)
      · simp [Memory.read]
    · split
      · split
        · rename_i hv
          subst_vars
          exact Memory.read_below h4 (by omega)
        · simp [Memory.read]
      · simp only [Memory.read]
        rw [if_neg (by assumption)]
        exact ih h4

/-- `MemRead` of the byte `MemWrite` wrote (R82). -/
theorem State.readByte_writeByte_same {s : State} (h : s.mem.wf = true) (g : Byte) (o : Half) (v : Byte) :
    (s.writeByte g o v).readByte g o = v :=
  Memory.read_write_same h

/-- `MemRead` of any other byte (R82: a write changes exactly one byte). -/
theorem State.readByte_writeByte_other (s : State) {g h : Byte} {o p : Half} (v : Byte) (ne : ¬(h = g ∧ p = o)) :
    (s.writeByte g o v).readByte h p = s.readByte h p :=
  Memory.read_write_other s.mem v (fun e => ne (addr_inj.mp e))

/-- A byte write keeps the canonical form. -/
theorem State.writeByte_wf {s : State} (h : s.mem.wf = true) (g : Byte) (o : Half) (v : Byte) :
    (s.writeByte g o v).mem.wf = true :=
  Memory.write_wf h g o v

/-- A push keeps the canonical form. -/
theorem State.push8_wf {s : State} (h : s.mem.wf = true) (v : Byte) : (s.push8 v).mem.wf = true :=
  State.writeByte_wf h _ _ v

/-- A multi-byte write keeps the canonical form. -/
theorem State.writeLE_wf {w : Nat} {s : State} (h : s.mem.wf = true) (g : Byte) (o : Half) (n : Nat) (v : BitVec w) :
    (s.writeLE g o n v).mem.wf = true := by
  induction n generalizing s o v with
  | zero => exact h
  | succ n ih => exact ih (State.writeByte_wf h _ _ _) _ _

/-- A write of a list of bytes keeps the canonical form. -/
theorem State.writeBytes_wf {s : State} (h : s.mem.wf = true) (g : Byte) (o : Half) (bs : List Byte) :
    (s.writeBytes g o bs).mem.wf = true := by
  induction bs generalizing s o with
  | nil => exact h
  | cons b bs ih => exact ih (State.writeByte_wf h _ _ _) _

/-- A multi-byte write changes memory alone. -/
theorem State.writeLE_eq {w : Nat} (s : State) (g : Byte) (o : Half) (n : Nat) (v : BitVec w) :
    s.writeLE g o n v = { s with mem := (s.writeLE g o n v).mem } := by
  induction n generalizing s o v with
  | zero => rfl
  | succ n ih =>
    simp only [State.writeLE]
    rw [ih]
    rfl

/-- A multi-byte write of n bytes leaves every byte outside its n addresses (R83). -/
theorem State.readByte_writeLE_other {w : Nat} (s : State) {g h : Byte} {o p : Half} (n : Nat) (v : BitVec w)
    (ne : ∀ k < n, ¬(h = g ∧ p = o + BitVec.ofNat 16 k)) :
    (s.writeLE g o n v).readByte h p = s.readByte h p := by
  induction n generalizing s o v with
  | zero => rfl
  | succ n ih =>
    simp only [State.writeLE]
    rw [ih, State.readByte_writeByte_other]
    · simpa using ne 0 (by omega)
    · intro k hk
      have := ne (k + 1) (by omega)
      rwa [BitVec.ofNat_add, BitVec.add_comm (BitVec.ofNat 16 k), ← BitVec.add_assoc] at this

/-- Byte k of a multi-byte write of at most 65536 bytes is bits 8k+7 : 8k of the value (R83). -/
theorem State.readByte_writeLE_same {w : Nat} {s : State} (hwf : s.mem.wf = true) (g : Byte) (o : Half) {n : Nat}
    (hn : n ≤ 65536) (v : BitVec w) {k : Nat} (hk : k < n) :
    (s.writeLE g o n v).readByte g (o + BitVec.ofNat 16 k) = (v >>> (8 * k)).setWidth 8 := by
  induction n generalizing s o v k with
  | zero => omega
  | succ n ih =>
    simp only [State.writeLE]
    cases k with
    | zero =>
      rw [State.readByte_writeLE_other]
      · simpa using State.readByte_writeByte_same hwf g o _
      · rintro k hk ⟨-, e⟩
        have := congrArg BitVec.toNat e
        have := o.isLt
        simp at this
        simp [BitVec.toNat_add] at *
        omega
    | succ k =>
      have := ih (State.writeByte_wf hwf g o (v.setWidth 8)) (o + 1) (by omega) (v >>> 8) (k := k) (by omega)
      rw [BitVec.ofNat_add, BitVec.add_comm (BitVec.ofNat 16 k), ← BitVec.add_assoc]
      refine this.trans ?_
      rw [← BitVec.shiftRight_add]
      congr 2
      omega

/-- A write of a list of bytes changes memory alone. -/
theorem State.writeBytes_eq (s : State) (g : Byte) (o : Half) (bs : List Byte) :
    s.writeBytes g o bs = { s with mem := (s.writeBytes g o bs).mem } := by
  induction bs generalizing s o with
  | nil => rfl
  | cons b bs ih =>
    rw [State.writeBytes, ih]
    rfl

/-- A write of a list of bytes leaves every byte outside its addresses. -/
theorem State.readByte_writeBytes_other (s : State) {g h : Byte} {o p : Half} (bs : List Byte)
    (ne : ∀ k < bs.length, ¬(h = g ∧ p = o + BitVec.ofNat 16 k)) :
    (s.writeBytes g o bs).readByte h p = s.readByte h p := by
  induction bs generalizing s o with
  | nil => rfl
  | cons b bs ih =>
    rw [State.writeBytes, ih, State.readByte_writeByte_other]
    · simpa using ne 0 (by simp)
    · intro k hk
      have := ne (k + 1) (by simpa using hk)
      rwa [BitVec.ofNat_add, BitVec.add_comm (BitVec.ofNat 16 k), ← BitVec.add_assoc] at this

/-- Byte k of a written list reads back, unless a byte 65536 places later wrapped onto it. -/
theorem State.readByte_writeBytes_same {s : State} (hwf : s.mem.wf = true) (g : Byte) (o : Half) (bs : List Byte)
    {k : Nat} (hk : k < bs.length) (hl : bs.length ≤ k + 65536) :
    (s.writeBytes g o bs).readByte g (o + BitVec.ofNat 16 k) = bs[k] := by
  induction bs generalizing s o k with
  | nil => simp at hk
  | cons b bs ih =>
    rw [State.writeBytes]
    cases k with
    | zero =>
      rw [State.readByte_writeBytes_other]
      · simpa using State.readByte_writeByte_same hwf g o b
      · rintro k hk' ⟨-, e⟩
        have := congrArg BitVec.toNat e
        have := o.isLt
        simp only [List.length_cons] at hl
        simp at this
        simp [BitVec.toNat_add] at *
        omega
    | succ k =>
      have := ih (State.writeByte_wf hwf g o b) (o + 1) (k := k) (by simpa using hk)
        (by simp only [List.length_cons] at hl; omega)
      rw [BitVec.ofNat_add, BitVec.add_comm (BitVec.ofNat 16 k), ← BitVec.add_assoc]
      exact this

end Sys2Proof.Machine
end

