-- ==== Sys2Proof/Laws/Operands.lean ====
section
/-! SUPPORT. The address computations as statements about numbers. -/

namespace Sys2Proof.Machine

/-- A signed byte added to an offset (R9), mod 2^16. -/
theorem addSigned_eq_ofInt (o : Half) (b : Byte) : addSigned o b = BitVec.ofInt 16 (o.toNat + b.toInt) := by
  apply BitVec.eq_of_toInt_eq
  simp only [addSigned, BitVec.toInt_add, BitVec.toInt_ofInt, BitVec.toInt_signExtend_of_le (show 8 ≤ 16 by omega),
    BitVec.toInt_eq_toNat_bmod o]
  simp [Int.add_bmod]

/-- A pointer in page 0 of DS (R128, R129). -/
theorem State.zeroPagePointer_toNat (s : State) (z : Byte) :
    (s.zeroPagePointer z).toNat =
      (s.readByte s.ds (z.setWidth 16)).toNat + 256 * (s.readByte s.ds ((z + 1).setWidth 16)).toNat := by
  rw [State.zeroPagePointer, half_toNat]
  omega

/-- Two offsets are in different pages when their quotients by 256 differ (R127). -/
theorem pageCross_toNat (a b : Half) : pageCross a b = decide (a.toNat / 256 ≠ b.toNat / 256) := by
  simp only [pageCross, ← hi8_toNat, ne_eq, BitVec.toNat_inj]

/-- The operand bytes of a memory mode are as many as its length says (R122). -/
theorem memLength_eq (m : MemMode) : m.bytes.length = memLength m := by cases m <;> rfl

theorem operandLength_eq (o : Operand) : o.bytes.length = operandLength o := by
  cases o
  · rfl
  · exact memLength_eq _

/-- The operand bytes of a STOR mode are as many as its length says (R140). -/
theorem storeLength_eq (m : StoreMode) : m.bytes.length = storeLength m := by cases m <;> rfl

end Sys2Proof.Machine
end

