-- ==== Sys2Proof/Laws/Registers.lean ====
section
/-! SUPPORT. The laws of the register views (R31 to R33): what a view reads after a view was written. -/

namespace Sys2Proof.Machine

/-- A lane reads back what was written to it. -/
theorem getLane_setLane_same {w : Nat} (x : Slot) (lane : Nat) (v : BitVec w) (h : w * lane + w ≤ 32) :
    getLane w (setLane x lane v) lane = v := by
  ext i hi
  have h1 : w * lane + i < 32 := by omega
  have h2 : ¬ (w * lane + i < w * lane) := by omega
  simp [getLane, setLane, hi, h1]

/-- A bit of a slot outside the written lane is kept. -/
theorem setLane_getLsbD_other {w : Nat} (x : Slot) (lane : Nat) (v : BitVec w) {i : Nat}
    (h : i < w * lane ∨ w * lane + w ≤ i) : (setLane x lane v).getLsbD i = x.getLsbD i := by
  by_cases hi : i < 32
  · rcases h with h | h
    · simp [setLane, hi, h]
    · have h1 : ¬ (i < w * lane) := by omega
      have h2 : w ≤ i - w * lane := by omega
      simp [setLane, hi, h1, BitVec.getLsbD_of_ge _ _ h2]
  · rw [BitVec.getLsbD_of_ge _ _ (by omega), BitVec.getLsbD_of_ge _ _ (by omega)]

/-- A lane of any width that does not meet the written one is kept. -/
theorem getLane_setLane_other {w w' : Nat} (x : Slot) (lane lane' : Nat) (v : BitVec w)
    (h : w' * lane' + w' ≤ w * lane ∨ w * lane + w ≤ w' * lane') :
    getLane w' (setLane x lane v) lane' = getLane w' x lane' := by
  ext i hi
  simp only [getLane, BitVec.getElem_extractLsb']
  exact setLane_getLsbD_other x lane v (by omega)

/-- The slot that was written. -/
theorem get_set_slot {v : Vector Slot 8} {i j : Fin 8} (x : Slot) (h : i = j) : (v.set i x).get j = x := by
  subst h
  simp [Vector.get_eq_getElem]

/-- A slot that was not written. -/
theorem get_set_other {v : Vector Slot 8} {i j : Fin 8} (x : Slot) (h : i ≠ j) : (v.set i x).get j = v.get j := by
  have : (i : Nat) ≠ j := fun e => h (Fin.ext e)
  simp [Vector.get_eq_getElem, this]

/-- The view of width w with selector n reads back what was written to it (R31, R32, R33). -/
theorem State.view_setView_same {w : Nat} (s : State) (n : Nat) (v : BitVec w) (hw : w = 8 ∨ w = 16 ∨ w = 32) :
    (s.setView n v).view w n = v := by
  simp only [State.view, State.setView, get_set_slot]
  apply getLane_setLane_same
  rcases hw with rfl | rfl | rfl <;> simp [laneOf] <;> omega

/-- A view in another slot is kept. -/
theorem State.view_setView_slot {w w' : Nat} (s : State) (n m : Nat) (v : BitVec w) (h : slotOf w n ≠ slotOf w' m) :
    (s.setView n v).view w' m = s.view w' m := by
  simp only [State.view, State.setView]
  rw [get_set_other _ h]

/-- A view in the same slot that does not meet the written one is kept. -/
theorem State.view_setView_lane {w w' : Nat} (s : State) (n m : Nat) (v : BitVec w)
    (h : w' * laneOf w' m + w' ≤ w * laneOf w n ∨ w * laneOf w n + w ≤ w' * laneOf w' m) :
    (s.setView n v).view w' m = s.view w' m := by
  by_cases hs : slotOf w n = slotOf w' m
  · simp only [State.view, State.setView, hs, get_set_slot]
    exact getLane_setLane_other _ _ _ _ h
  · exact State.view_setView_slot s n m v hs

/-- A byte of the file that is not part of the written view is kept: byte k is part of the view of width w with
selector n when k / (w / 8) = n (R31, R32, R33). -/
theorem State.view8_setView_other {w : Nat} (s : State) {n k : Nat} (v : BitVec w) (hw : w = 8 ∨ w = 16 ∨ w = 32)
    (hn : n < 256 / w) (hk : k < 32) (h : k / (w / 8) ≠ n) : (s.setView n v).view 8 k = s.view 8 k := by
  by_cases hs : slotOf w n = slotOf 8 k
  · apply State.view_setView_lane
    have := congrArg Fin.val hs
    rcases hw with rfl | rfl | rfl <;> simp [slotOf, laneOf, Fin.ofNat] at * <;> omega
  · exact State.view_setView_slot s n k v hs

end Sys2Proof.Machine
end

