-- ==== Sys2Proof/Laws/Ops.lean ====
section
/-! SUPPORT. One lemma for each shared operation that says everything it does, as one record update of the state, and
the lemmas of the parts such an update is made of. A proof about an instruction cites these and unfolds no operation. -/

namespace Sys2Proof.Machine

variable (s : State)

/-! ## The shared operations -/

theorem State.setView_eq {w : Nat} (n : Nat) (v : BitVec w) :
    s.setView n v = { s with gpr := (s.setView n v).gpr } := rfl

theorem State.writeByte_eq (g : Byte) (o : Half) (v : Byte) :
    s.writeByte g o v = { s with mem := s.mem.write (addr g o) v } := rfl

theorem State.push8_eq (v : Byte) :
    s.push8 v = { s with mem := s.mem.write (addr s.ss s.sp) v, sp := spPushed s.sp } := rfl

theorem State.popped_eq : s.popped = { s with sp := spPopped s.sp } := rfl

theorem State.load_eq (n : Nat) (o : Operand) :
    s.load n o =
      { s with
        pc := s.pc + BitVec.ofNat 16 (1 + operandLength o)
        gpr := (s.setView n (s.readOp o)).gpr
        flags := s.flags.setNZ (s.readOp o) } := rfl

theorem State.store_eq (m : MemMode) (v : Byte) :
    s.store m v =
      { s with
        pc := s.pc + BitVec.ofNat 16 (1 + memLength m)
        mem := s.mem.write (addr s.ds (s.ea m)) v } := rfl

theorem State.transfer_eq (n : Nat) (v : Byte) :
    s.transfer n v =
      { s with pc := s.pc + 1, gpr := (s.setView n v).gpr, flags := s.flags.setNZ v } := rfl

theorem State.arith_eq (o : Operand) (r : ArithResult) :
    s.arith o r =
      { s with
        pc := s.pc + BitVec.ofNat 16 (1 + operandLength o)
        gpr := (s.setView 1 r.value).gpr
        flags := s.flags.setArith r } := rfl

theorem State.logicA_eq (o : Operand) (v : Byte) :
    s.logicA o v =
      { s with
        pc := s.pc + BitVec.ofNat 16 (1 + operandLength o)
        gpr := (s.setView 1 v).gpr
        flags := s.flags.setNZ v } := rfl

theorem State.compare_eq (r : Byte) (o : Operand) :
    s.compare r o =
      { s with
        pc := s.pc + BitVec.ofNat 16 (1 + operandLength o)
        flags := s.flags.setCompare r (s.readOp o) } := rfl

theorem State.modify_eq (m : MemMode) (v : Byte) :
    s.modify m v =
      { s with
        pc := s.pc + BitVec.ofNat 16 (1 + memLength m)
        mem := s.mem.write (addr s.ds (s.ea m)) v
        flags := s.flags.setNZ v } := rfl

theorem State.shift_acc_eq (f : Byte → Bool → ShiftResult) :
    s.shift .acc f =
      { s with
        pc := s.pc + 1
        gpr := (s.setView 1 (f s.a s.flags.c).value).gpr
        flags := s.flags.setShift (f s.a s.flags.c) } := rfl

theorem State.shift_mem_eq (m : MemMode) (f : Byte → Bool → ShiftResult) :
    s.shift (.mem m) f =
      { s with
        pc := s.pc + BitVec.ofNat 16 (1 + memLength m)
        mem := s.mem.write (addr s.ds (s.ea m)) (f (s.readMem m) s.flags.c).value
        flags := s.flags.setShift (f (s.readMem m) s.flags.c) } := rfl

theorem State.branch_eq (taken : Bool) (rr : Byte) :
    s.branch taken rr = { s with pc := if taken then s.branchTarget rr else s.branchNext } := rfl

theorem State.flagOp_eq (f : Flags) : s.flagOp f = { s with pc := s.pc + 1, flags := f } := rfl

theorem State.regOp_eq {w : Nat} (d : RegField) (v : BitVec w) :
    s.regOp d v = { s with pc := s.pc + 2, gpr := (s.setView d.toNat v).gpr } := rfl

theorem State.math_eq {w : Nat} (d : RegField) (len : Nat) (r : MathResult w) :
    s.math d len r =
      { s with
        pc := s.pc + BitVec.ofNat 16 len
        gpr := (s.setView d.toNat r.value).gpr
        flags := s.flags.setMath r } := rfl

theorem State.stor_eq (w n : Nat) (src i : RegField) (m : StoreMode) :
    s.stor w n src i m =
      { s with
        pc := s.pc + BitVec.ofNat 16 (2 + storeLength m)
        mem := (s.writeLE (s.storeSeg m) (s.storeOff w src i m) n (s.view w src.toNat)).mem } := by
  rw [State.stor, State.writeLE_eq]; rfl

theorem State.raiseIllegal_eq (cause : IllegalCause) (bytes : List Byte) :
    s.raiseIllegal cause bytes =
      { s with
        pc := s.pc + BitVec.ofNat 16 bytes.length
        run := Configuration.illegalRun s.config s.run
        lastIllegal := some { cause := cause, seg := s.ps, pc := s.pc, bytes := bytes } } := rfl

theorem State.enterBreak_eq :
    s.enterBreak =
      let p := ((s.push8 (hi8 (s.pc + 2))).push8 (lo8 (s.pc + 2))).push8 s.flags.pack
      { s with
        pc := half (p.readByte 0 0xFFFF) (p.readByte 0 0xFFFE)
        sp := spPushed (spPushed (spPushed s.sp))
        ps := 0
        ds := 0
        ss := 0
        flags := { s.flags with i := true }
        run := if s.config.haltOnBRK then .halt else s.run
        mem := p.mem } := rfl

theorem State.returnFromBreak_eq :
    s.returnFromBreak =
      { s with
        flags := Flags.unpack s.top
        pc := half s.popped.popped.top s.popped.top
        sp := spPopped (spPopped (spPopped s.sp)) } := rfl

theorem State.performReset_eq :
    s.performReset =
      { s with
        gpr := Vector.replicate 8 0
        pc := half (s.readByte 0 0xFFFD) (s.readByte 0 0xFFFC)
        sp := Config.resetSp s.resetDraws
        ps := 0
        ds := 0
        ss := 0
        flags := Flags.clear
        run := .normal
        cycles := 0 + Config.resetCycles
        resetDraws := s.resetDraws + 1 } := rfl

end Sys2Proof.Machine
end

