-- ==== Sys2Proof/Laws/PerInstr.lean ====
section
/-! SUPPORT. One lemma for each constructor of Instr: the encoder writes bytes for an instruction exactly when it is
well-formed, and never more than six. -/

namespace Sys2Proof.Laws.Encodes

/-- The encoder writes bytes for i exactly when i is well-formed, and at most six of them (R120, R143). -/
def Statement (i : Instr) : Prop :=
  ∀ (e : ExtOpcodes), (encode e i ≠ [] ↔ i.wellFormed = true) ∧ (encode e i).length ≤ 6

/-- A standard or 65C02 instruction with an opcode byte and at most two operand bytes. -/
theorem of_opcode {i : Instr} {op : Byte} (h : i.opcode? = some op) (hw : i.wellFormed = true)
    (hl : Nat.ble i.operandBytes.length 2 = true) : Statement i := by
  intro e
  have := Nat.le_of_ble_eq_true hl
  simp only [encode, h, hw, List.length_cons]
  exact ⟨by simp, by omega⟩

/-- An extension instruction with a family byte, a sub-byte and at most four operand bytes. -/
theorem of_extension {i : Instr} {f : Family} {b : Byte} (ho : i.opcode? = none) (h : i.extension? = some (f, b))
    (hw : i.wellFormed = true) (hl : Nat.ble i.operandBytes.length 4 = true) : Statement i := by
  intro e
  have := Nat.le_of_ble_eq_true hl
  simp only [encode, ho, h, hw, List.length_cons]
  exact ⟨by simp, by omega⟩

/-- An ill-formed instruction has no bytes. -/
theorem of_none {i : Instr} (ho : i.opcode? = none) (h : i.extension? = none) (hw : i.wellFormed = false) :
    Statement i := by
  intro e
  simp only [encode, ho, h, hw, List.length_nil]
  exact ⟨by simp, by omega⟩

theorem lda (o : Operand) : Statement (.lda o) := by
  rcases o with v | m
  · exact of_opcode rfl rfl rfl
  · cases m <;> first | exact of_opcode rfl rfl rfl | exact of_none rfl rfl rfl

theorem ldx (o : Operand) : Statement (.ldx o) := by
  rcases o with v | m
  · exact of_opcode rfl rfl rfl
  · cases m <;> first | exact of_opcode rfl rfl rfl | exact of_none rfl rfl rfl

theorem ldy (o : Operand) : Statement (.ldy o) := by
  rcases o with v | m
  · exact of_opcode rfl rfl rfl
  · cases m <;> first | exact of_opcode rfl rfl rfl | exact of_none rfl rfl rfl

theorem sta (m : MemMode) : Statement (.sta m) := by
  cases m <;> first | exact of_opcode rfl rfl rfl | exact of_none rfl rfl rfl

theorem stx (m : MemMode) : Statement (.stx m) := by
  cases m <;> first | exact of_opcode rfl rfl rfl | exact of_none rfl rfl rfl

theorem sty (m : MemMode) : Statement (.sty m) := by
  cases m <;> first | exact of_opcode rfl rfl rfl | exact of_none rfl rfl rfl

theorem stz (m : MemMode) : Statement (.stz m) := by
  cases m <;> first | exact of_opcode rfl rfl rfl | exact of_none rfl rfl rfl

theorem tax : Statement (.tax) := by
  exact of_opcode rfl rfl rfl

theorem tay : Statement (.tay) := by
  exact of_opcode rfl rfl rfl

theorem txa : Statement (.txa) := by
  exact of_opcode rfl rfl rfl

theorem tya : Statement (.tya) := by
  exact of_opcode rfl rfl rfl

theorem tsx : Statement (.tsx) := by
  exact of_opcode rfl rfl rfl

theorem txs : Statement (.txs) := by
  exact of_opcode rfl rfl rfl

theorem adc (o : Operand) : Statement (.adc o) := by
  rcases o with v | m
  · exact of_opcode rfl rfl rfl
  · cases m <;> first | exact of_opcode rfl rfl rfl | exact of_none rfl rfl rfl

theorem sbc (o : Operand) : Statement (.sbc o) := by
  rcases o with v | m
  · exact of_opcode rfl rfl rfl
  · cases m <;> first | exact of_opcode rfl rfl rfl | exact of_none rfl rfl rfl

theorem and (o : Operand) : Statement (.and o) := by
  rcases o with v | m
  · exact of_opcode rfl rfl rfl
  · cases m <;> first | exact of_opcode rfl rfl rfl | exact of_none rfl rfl rfl

theorem eor (o : Operand) : Statement (.eor o) := by
  rcases o with v | m
  · exact of_opcode rfl rfl rfl
  · cases m <;> first | exact of_opcode rfl rfl rfl | exact of_none rfl rfl rfl

theorem ora (o : Operand) : Statement (.ora o) := by
  rcases o with v | m
  · exact of_opcode rfl rfl rfl
  · cases m <;> first | exact of_opcode rfl rfl rfl | exact of_none rfl rfl rfl

theorem bit (m : MemMode) : Statement (.bit m) := by
  cases m <;> first | exact of_opcode rfl rfl rfl | exact of_none rfl rfl rfl

theorem cmp (o : Operand) : Statement (.cmp o) := by
  rcases o with v | m
  · exact of_opcode rfl rfl rfl
  · cases m <;> first | exact of_opcode rfl rfl rfl | exact of_none rfl rfl rfl

theorem cpx (o : Operand) : Statement (.cpx o) := by
  rcases o with v | m
  · exact of_opcode rfl rfl rfl
  · cases m <;> first | exact of_opcode rfl rfl rfl | exact of_none rfl rfl rfl

theorem cpy (o : Operand) : Statement (.cpy o) := by
  rcases o with v | m
  · exact of_opcode rfl rfl rfl
  · cases m <;> first | exact of_opcode rfl rfl rfl | exact of_none rfl rfl rfl

theorem inc (m : MemMode) : Statement (.inc m) := by
  cases m <;> first | exact of_opcode rfl rfl rfl | exact of_none rfl rfl rfl

theorem dec (m : MemMode) : Statement (.dec m) := by
  cases m <;> first | exact of_opcode rfl rfl rfl | exact of_none rfl rfl rfl

theorem inx : Statement (.inx) := by
  exact of_opcode rfl rfl rfl

theorem iny : Statement (.iny) := by
  exact of_opcode rfl rfl rfl

theorem dex : Statement (.dex) := by
  exact of_opcode rfl rfl rfl

theorem dey : Statement (.dey) := by
  exact of_opcode rfl rfl rfl

theorem asl (t : ShiftTarget) : Statement (.asl t) := by
  rcases t with _ | m
  · exact of_opcode rfl rfl rfl
  · cases m <;> first | exact of_opcode rfl rfl rfl | exact of_none rfl rfl rfl

theorem lsr (t : ShiftTarget) : Statement (.lsr t) := by
  rcases t with _ | m
  · exact of_opcode rfl rfl rfl
  · cases m <;> first | exact of_opcode rfl rfl rfl | exact of_none rfl rfl rfl

theorem rol (t : ShiftTarget) : Statement (.rol t) := by
  rcases t with _ | m
  · exact of_opcode rfl rfl rfl
  · cases m <;> first | exact of_opcode rfl rfl rfl | exact of_none rfl rfl rfl

theorem ror (t : ShiftTarget) : Statement (.ror t) := by
  rcases t with _ | m
  · exact of_opcode rfl rfl rfl
  · cases m <;> first | exact of_opcode rfl rfl rfl | exact of_none rfl rfl rfl

theorem bpl (rr : Byte) : Statement (.bpl rr) := by
  exact of_opcode rfl rfl rfl

theorem bmi (rr : Byte) : Statement (.bmi rr) := by
  exact of_opcode rfl rfl rfl

theorem bvc (rr : Byte) : Statement (.bvc rr) := by
  exact of_opcode rfl rfl rfl

theorem bvs (rr : Byte) : Statement (.bvs rr) := by
  exact of_opcode rfl rfl rfl

theorem bcc (rr : Byte) : Statement (.bcc rr) := by
  exact of_opcode rfl rfl rfl

theorem bcs (rr : Byte) : Statement (.bcs rr) := by
  exact of_opcode rfl rfl rfl

theorem bne (rr : Byte) : Statement (.bne rr) := by
  exact of_opcode rfl rfl rfl

theorem beq (rr : Byte) : Statement (.beq rr) := by
  exact of_opcode rfl rfl rfl

theorem bra (rr : Byte) : Statement (.bra rr) := by
  exact of_opcode rfl rfl rfl

theorem jmpAbs (a : Half) : Statement (.jmpAbs a) := by
  exact of_opcode rfl rfl rfl

theorem jmpInd (a : Half) : Statement (.jmpInd a) := by
  exact of_opcode rfl rfl rfl

theorem jsr (a : Half) : Statement (.jsr a) := by
  exact of_opcode rfl rfl rfl

theorem rts : Statement (.rts) := by
  exact of_opcode rfl rfl rfl

theorem rti : Statement (.rti) := by
  exact of_opcode rfl rfl rfl

theorem brk : Statement (.brk) := by
  exact of_opcode rfl rfl rfl

theorem nop : Statement (.nop) := by
  exact of_opcode rfl rfl rfl

theorem pha : Statement (.pha) := by
  exact of_opcode rfl rfl rfl

theorem php : Statement (.php) := by
  exact of_opcode rfl rfl rfl

theorem pla : Statement (.pla) := by
  exact of_opcode rfl rfl rfl

theorem plp : Statement (.plp) := by
  exact of_opcode rfl rfl rfl

theorem clc : Statement (.clc) := by
  exact of_opcode rfl rfl rfl

theorem sec : Statement (.sec) := by
  exact of_opcode rfl rfl rfl

theorem cli : Statement (.cli) := by
  exact of_opcode rfl rfl rfl

theorem sei : Statement (.sei) := by
  exact of_opcode rfl rfl rfl

theorem clv : Statement (.clv) := by
  exact of_opcode rfl rfl rfl

theorem cld : Statement (.cld) := by
  exact of_opcode rfl rfl rfl

theorem sed : Statement (.sed) := by
  exact of_opcode rfl rfl rfl

theorem movNotB (d s : RegField) : Statement (.movNotB d s) := by
  exact of_extension rfl rfl rfl rfl

theorem segxB (x : BitVec 6) : Statement (.segxB x) := by
  exact of_extension rfl rfl rfl rfl

theorem illegalXtop1 (x : BitVec 7) : Statement (.illegalXtop1 x) := by
  exact of_extension rfl rfl rfl rfl

theorem movNotW (d s : RegField) : Statement (.movNotW d s) := by
  exact of_extension rfl rfl rfl rfl

theorem andW (d s : RegField) : Statement (.andW d s) := by
  exact of_extension rfl rfl rfl rfl

theorem xorW (d s : RegField) : Statement (.xorW d s) := by
  exact of_extension rfl rfl rfl rfl

theorem orW (d s : RegField) : Statement (.orW d s) := by
  exact of_extension rfl rfl rfl rfl

theorem movNotL (d s : RegField) : Statement (.movNotL d s) := by
  exact of_extension rfl rfl rfl rfl

theorem andL (d s : RegField) : Statement (.andL d s) := by
  exact of_extension rfl rfl rfl rfl

theorem xorL (d s : RegField) : Statement (.xorL d s) := by
  exact of_extension rfl rfl rfl rfl

theorem orL (d s : RegField) : Statement (.orL d s) := by
  exact of_extension rfl rfl rfl rfl

theorem movsToSeg (g : SegReg) (r : RegField) : Statement (.movsToSeg g r) := by
  exact of_extension rfl rfl rfl rfl

theorem movsFromSeg (r : RegField) (g : SegReg) : Statement (.movsFromSeg r g) := by
  exact of_extension rfl rfl rfl rfl

theorem illegalTrx (x : BitVec 4) (g : BitVec 3) : Statement (.illegalTrx x g) := by
  by_cases h : 3 ≤ g.toNat
  · exact of_extension rfl (if_pos h) (decide_eq_true h) rfl
  · exact of_none rfl (if_neg h) (decide_eq_false h)

theorem refusedTrx (x : BitVec 7) : Statement (.refusedTrx x) := by
  exact of_extension rfl rfl rfl rfl

theorem addB (d s : RegField) (k : Option Byte) : Statement (.addB d s k) := by
  cases k <;> exact of_extension rfl rfl rfl rfl

theorem subB (d s : RegField) (k : Option Byte) : Statement (.subB d s k) := by
  cases k <;> exact of_extension rfl rfl rfl rfl

theorem addW (d s : RegField) (k : Option Half) : Statement (.addW d s k) := by
  cases k <;> exact of_extension rfl rfl rfl rfl

theorem subW (d s : RegField) (k : Option Half) : Statement (.subW d s k) := by
  cases k <;> exact of_extension rfl rfl rfl rfl

theorem addL (d s : RegField) (k : Option Slot) : Statement (.addL d s k) := by
  cases k <;> exact of_extension rfl rfl rfl rfl

theorem subL (d s : RegField) (k : Option Slot) : Statement (.subL d s k) := by
  cases k <;> exact of_extension rfl rfl rfl rfl

theorem stB (s i : RegField) (m : StoreMode) : Statement (.stB s i m) := by
  cases m <;> exact of_extension rfl rfl rfl rfl

theorem stW (s i : RegField) (m : StoreMode) : Statement (.stW s i m) := by
  cases m <;> exact of_extension rfl rfl rfl rfl

theorem stL (s i : RegField) (m : StoreMode) : Statement (.stL s i m) := by
  cases m <;> exact of_extension rfl rfl rfl rfl

end Sys2Proof.Laws.Encodes
end

