-- ==== Sys2Proof/Laws/Stack.lean ====
section
/-! SUPPORT. The laws of the stack (R84): what one, two and three pushes leave in memory, and what the trap entry and
its return read and write. -/

namespace Sys2Proof.Machine

theorem State.readByte_push8_same {s : State} (h : s.mem.wf = true) (v : Byte) :
    (s.push8 v).readByte s.ss s.sp = v :=
  Memory.read_write_same h

theorem State.readByte_push8_other (s : State) (v : Byte) {g : Byte} {o : Half} (h : ¬(g = s.ss ∧ o = s.sp)) :
    (s.push8 v).readByte g o = s.readByte g o :=
  State.readByte_writeByte_other s v h

/-- The byte a pop after a push returns is the byte pushed. -/
theorem State.top_push8 {s : State} (h : s.mem.wf = true) (v : Byte) : (s.push8 v).top = v := by
  show (s.push8 v).readByte s.ss (spPopped (spPushed s.sp)) = v
  rw [spPopped_spPushed]
  exact State.readByte_push8_same h v

/-- Two pushes: the first byte is still there, the second is below it. -/
theorem State.readByte_push8_two {s : State} (h : s.mem.wf = true) (v w : Byte) :
    ((s.push8 v).push8 w).readByte s.ss s.sp = v ∧ ((s.push8 v).push8 w).readByte s.ss (spPushed s.sp) = w := by
  refine ⟨?_, State.readByte_push8_same (s := s.push8 v) (State.push8_wf h v) w⟩
  rw [State.readByte_push8_other (s.push8 v) w (fun e => spPushed_ne s.sp e.2.symm)]
  exact State.readByte_push8_same h v

theorem State.readByte_push8_two_other (s : State) (v w : Byte) {g : Byte} {o : Half}
    (h : ¬(g = s.ss ∧ (o = s.sp ∨ o = spPushed s.sp))) :
    ((s.push8 v).push8 w).readByte g o = s.readByte g o := by
  rw [State.readByte_push8_other (s.push8 v) w (fun e => h ⟨e.1, Or.inr e.2⟩),
    State.readByte_push8_other s v (fun e => h ⟨e.1, Or.inl e.2⟩)]

/-- Three pushes: the first two bytes are still there, the third is below them. -/
theorem State.readByte_push8_three {s : State} (h : s.mem.wf = true) (u v w : Byte) :
    (((s.push8 u).push8 v).push8 w).readByte s.ss s.sp = u ∧
    (((s.push8 u).push8 v).push8 w).readByte s.ss (spPushed s.sp) = v ∧
    (((s.push8 u).push8 v).push8 w).readByte s.ss (spPushed (spPushed s.sp)) = w := by
  have h2 := State.readByte_push8_two h u v
  refine ⟨?_, ?_, State.readByte_push8_same (s := (s.push8 u).push8 v) (State.push8_wf (State.push8_wf h u) v) w⟩
  · rw [State.readByte_push8_other ((s.push8 u).push8 v) w (fun e => spPushed_spPushed_ne s.sp e.2.symm)]
    exact h2.1
  · rw [State.readByte_push8_other ((s.push8 u).push8 v) w (fun e => spPushed_ne (spPushed s.sp) e.2.symm)]
    exact h2.2

theorem State.readByte_push8_three_other (s : State) (u v w : Byte) {g : Byte} {o : Half}
    (h : ¬(g = s.ss ∧ (o = s.sp ∨ o = spPushed s.sp ∨ o = spPushed (spPushed s.sp)))) :
    (((s.push8 u).push8 v).push8 w).readByte g o = s.readByte g o := by
  rw [State.readByte_push8_other ((s.push8 u).push8 v) w (fun e => h ⟨e.1, Or.inr (Or.inr e.2)⟩),
    State.readByte_push8_two_other s u v (fun e => h ⟨e.1, e.2.imp id Or.inl⟩)]

/-- The memory after the trap entry is the memory after its three pushes (R305). -/
theorem State.enterBreak_mem (s : State) :
    s.enterBreak.mem = (((s.push8 (hi8 (s.pc + 2))).push8 (lo8 (s.pc + 2))).push8 s.flags.pack).mem := rfl

theorem State.readByte_enterBreak (s : State) (g : Byte) (o : Half) :
    s.enterBreak.readByte g o =
      (((s.push8 (hi8 (s.pc + 2))).push8 (lo8 (s.pc + 2))).push8 s.flags.pack).readByte g o := rfl

/-- The trap entry keeps the canonical form of memory. -/
theorem State.enterBreak_wf {s : State} (h : s.mem.wf = true) : s.enterBreak.mem.wf = true := by
  rw [State.enterBreak_mem]
  exact State.push8_wf (State.push8_wf (State.push8_wf h _) _) _

end Sys2Proof.Machine
end

