-- ==== Sys2Proof/Laws/Step.lean ====
section
/-! SUPPORT. What a gate, an instruction and a step can do, each said once: the inversion lemmas from which a statement
about every step is derived without unfolding the step. -/

namespace Sys2Proof.Machine

/-- A 65C02 gate lets its instruction through, or is closed and raises ILLEGAL_OPCODE (R134, R135). -/
theorem gate65c02_next {s t : State} {op : Byte} {k : Host.Outcome State Fault Refusal}
    (h : s.gate65c02 op k = .next t) :
    (s.config.allow65c02 = true ∧ k = .next t) ∨ (s.config.allow65c02 = false ∧ t = s.illegalOpcode op) := by
  rw [State.gate65c02] at h
  split at h
  · exact .inl ⟨by assumption, h⟩
  · rename_i hg
    injection h with h
    exact .inr ⟨by simpa using hg, h.symm⟩

/-- An extension gate lets its instruction through, or is closed and raises ILLEGAL_OPCODE (R134, R136). -/
theorem gate65x02_next {s t : State} {f : Family} {k : Host.Outcome State Fault Refusal}
    (h : s.gate65x02 f k = .next t) :
    (s.config.allow65x02 = true ∧ k = .next t) ∨
      (s.config.allow65x02 = false ∧ t = s.illegalOpcode (s.params.ext.byte f)) := by
  rw [State.gate65x02] at h
  split at h
  · exact .inl ⟨by assumption, h⟩
  · rename_i hg
    injection h with h
    exact .inr ⟨by simpa using hg, h.symm⟩

/-- An open gate is not there. -/
theorem gate65c02_open {s : State} (h : s.config.allow65c02 = true) (op : Byte)
    (k : Host.Outcome State Fault Refusal) : s.gate65c02 op k = k := if_pos h

theorem gate65x02_open {s : State} (h : s.config.allow65x02 = true) (f : Family)
    (k : Host.Outcome State Fault Refusal) : s.gate65x02 f k = k := if_pos h

/-- A closed gate raises ILLEGAL_OPCODE. -/
theorem gate65c02_closed {s : State} (h : s.config.allow65c02 = false) (op : Byte)
    (k : Host.Outcome State Fault Refusal) : s.gate65c02 op k = .next (s.illegalOpcode op) := if_neg (by simp [h])

theorem gate65x02_closed {s : State} (h : s.config.allow65x02 = false) (f : Family)
    (k : Host.Outcome State Fault Refusal) :
    s.gate65x02 f k = .next (s.illegalOpcode (s.params.ext.byte f)) := if_neg (by simp [h])

/-- Raising an exception does what `takesIllegal` says (R453, R454, R455). -/
theorem State.raiseIllegal_takes (s : State) (cause : IllegalCause) (bytes : List Byte) :
    takesIllegal cause bytes s (s.raiseIllegal cause bytes) :=
  ⟨rfl, rfl, rfl, rfl, rfl, rfl, fun _ _ => rfl, ⟨rfl, rfl, rfl⟩, ⟨rfl, rfl, rfl, rfl⟩⟩

/-- The components an instruction that is no exception, no BRK and no segment write may change: the register file, PC,
SP, the flags and memory, whose canonical form it keeps; SP[15:8] only by TXS. -/
def ordinary (i : Instr) (s t : State) : Prop :=
  t = { s with gpr := t.gpr, pc := t.pc, sp := t.sp, flags := t.flags, mem := t.mem } ∧
  (s.mem.wf = true → t.mem.wf = true) ∧ (i ≠ .txs → hi8 t.sp = hi8 s.sp)

theorem State.stor_ordinary (i : Instr) (s : State) (w n : Nat) (src j : RegField) (m : StoreMode) :
    ordinary i s (s.stor w n src j m) := by
  rw [State.stor_eq]
  exact ⟨rfl, fun h => State.writeLE_wf h _ _ _ _, fun _ => rfl⟩

/-- What an instruction that answers a next state can have done: taken an illegal-instruction exception, taken the
trap, written a segment selector, or an ordinary effect. -/
theorem exec_cases {i : Instr} {s t : State} (h : exec i s = .next t) :
    (∃ op, t = s.illegalOpcode op) ∨ (∃ f sub, t = s.illegalSubop f sub) ∨ (i = .brk ∧ t = s.enterBreak) ∨
    (∃ g r, i = .movsToSeg g r ∧ t = (s.advance 2).setSeg g (s.view 8 r.toNat)) ∨ ordinary i s t := by
  cases i
  case brk =>
    injection h with h
    exact .inr (.inr (.inl ⟨rfl, h.symm⟩))
  case movsToSeg g r =>
    rcases gate65x02_next h with ⟨-, h⟩ | ⟨-, rfl⟩
    · injection h with h
      exact .inr (.inr (.inr (.inl ⟨g, r, rfl, h.symm⟩)))
    · exact .inl ⟨_, rfl⟩
  case illegalXtop1 | illegalTrx =>
    rcases gate65x02_next h with ⟨-, h⟩ | ⟨-, rfl⟩
    · injection h with h
      exact .inr (.inl ⟨_, _, h.symm⟩)
    · exact .inl ⟨_, rfl⟩
  case refusedTrx =>
    rcases gate65x02_next h with ⟨-, h⟩ | ⟨-, rfl⟩
    · cases h
    · exact .inl ⟨_, rfl⟩
  case stz m =>
    rcases gate65c02_next h with ⟨-, h⟩ | ⟨-, rfl⟩
    · injection h with h
      subst h
      exact .inr (.inr (.inr (.inr ⟨rfl, fun hm => Memory.write_wf hm _ _ _, fun _ => rfl⟩)))
    · exact .inl ⟨_, rfl⟩
  case bra =>
    rcases gate65c02_next h with ⟨-, h⟩ | ⟨-, rfl⟩
    · injection h with h
      subst h
      exact .inr (.inr (.inr (.inr ⟨rfl, id, fun _ => rfl⟩)))
    · exact .inl ⟨_, rfl⟩
  case stB | stW | stL =>
    rcases gate65x02_next h with ⟨-, h⟩ | ⟨-, rfl⟩
    · injection h with h
      subst h
      exact .inr (.inr (.inr (.inr (State.stor_ordinary _ _ _ _ _ _ _))))
    · exact .inl ⟨_, rfl⟩
  case movNotB | segxB | movNotW | andW | xorW | orW | movNotL | andL | xorL | orL | movsFromSeg
      | addB | subB | addW | subW | addL | subL =>
    rcases gate65x02_next h with ⟨-, h⟩ | ⟨-, rfl⟩
    · injection h with h
      subst h
      exact .inr (.inr (.inr (.inr ⟨rfl, id, fun _ => rfl⟩)))
    · exact .inl ⟨_, rfl⟩
  case sta | stx | sty | inc | dec =>
    injection h with h
    subst h
    exact .inr (.inr (.inr (.inr ⟨rfl, fun hm => Memory.write_wf hm _ _ _, fun _ => rfl⟩)))
  case asl t | lsr t | rol t | ror t =>
    injection h with h
    subst h
    cases t
    · exact .inr (.inr (.inr (.inr ⟨rfl, id, fun _ => rfl⟩)))
    · exact .inr (.inr (.inr (.inr ⟨rfl, fun hm => Memory.write_wf hm _ _ _, fun _ => rfl⟩)))
  case pha | php =>
    injection h with h
    subst h
    exact .inr (.inr (.inr (.inr ⟨rfl, fun hm => State.push8_wf hm _, fun _ => hi8_spPushed _⟩)))
  case jsr =>
    injection h with h
    subst h
    exact .inr (.inr (.inr (.inr ⟨rfl, fun hm => State.push8_wf (State.push8_wf hm _) _,
      fun _ => (hi8_spPushed _).trans (hi8_spPushed _)⟩)))
  case pla | plp =>
    injection h with h
    subst h
    exact .inr (.inr (.inr (.inr ⟨rfl, id, fun _ => hi8_spPopped _⟩)))
  case rts =>
    injection h with h
    subst h
    exact .inr (.inr (.inr (.inr ⟨rfl, id, fun _ => (hi8_spPopped _).trans (hi8_spPopped _)⟩)))
  case rti =>
    injection h with h
    subst h
    exact .inr (.inr (.inr (.inr ⟨rfl, id, fun _ => ((hi8_spPopped _).trans (hi8_spPopped _)).trans (hi8_spPopped _)⟩)))
  case txs =>
    injection h with h
    subst h
    exact .inr (.inr (.inr (.inr ⟨rfl, id, fun hne => absurd rfl hne⟩)))
  all_goals
    injection h with h
    subst h
    exact .inr (.inr (.inr (.inr ⟨rfl, id, fun _ => rfl⟩)))

/-- Behind a closed gate a well-formed instruction takes ILLEGAL_OPCODE with its own first byte, which is a 65C02 byte
or an EXT_OPCODE byte whose gate is closed (R134, cases 2 and 3 of R451). -/
theorem exec_gate_closed {i : Instr} {s : State} (h : s.gateOpen i = false) (hw : i.wellFormed = true) :
    ∃ op rest, encode s.params.ext i = op :: rest ∧ exec i s = .next (s.illegalOpcode op) ∧
      ((op ∈ [0x80#8, 0x64#8, 0x74#8, 0x9C#8, 0x9E#8] ∧ s.config.allow65c02 = false) ∨
        (op ∈ s.params.ext.bytes ∧ s.config.allow65x02 = false)) := by
  cases i
  case bra r => exact ⟨0x80, _, rfl, gate65c02_closed h _ _, .inl ⟨by decide, h⟩⟩
  case stz m =>
    cases m <;> first
      | exact ⟨_, _, rfl, gate65c02_closed h _ _, .inl ⟨by decide, h⟩⟩
      | exact absurd hw (by decide)
      | cases hw
  case illegalTrx x g =>
    have hg : 3 ≤ g.toNat := of_decide_eq_true hw
    simp only [State.gateOpen, Instr.extension?, hg, if_true] at h
    exact ⟨_, _, by simp only [encode, Instr.opcode?, Instr.extension?, hg, if_true]; rfl, gate65x02_closed h _ _,
      .inr ⟨ExtOpcodes.byte_mem _ _, h⟩⟩
  all_goals first
    | (exact ⟨_, _, rfl, gate65x02_closed h _ _, .inr ⟨ExtOpcodes.byte_mem _ _, h⟩⟩)
    | cases h

/-- Behind an open gate a well-formed instruction that is no BRK and has no unrecognised sub-byte keeps the processor
state and the record; an unrecognised sub-byte takes ILLEGAL_SUBOP with both its bytes (R452). -/
theorem exec_gate_open {i : Instr} {s t : State} (h : s.gateOpen i = true) (hw : i.wellFormed = true)
    (he : exec i s = .next t) :
    sameRun s t ∨ (i = .brk ∧ t = s.enterBreak) ∨
    (∃ x, i = .illegalXtop1 x ∧ t = s.illegalSubop .xtop1 (1#1 ++ x)) ∨
    ∃ x g, i = .illegalTrx x g ∧ 3 ≤ g.toNat ∧ t = s.illegalSubop .xtop1Trx (0#1 ++ x ++ g) := by
  cases i
  case brk =>
    injection he with he
    exact .inr (.inl ⟨rfl, he.symm⟩)
  case illegalXtop1 x =>
    injection (gate65x02_open h _ _).symm.trans he with he
    exact .inr (.inr (.inl ⟨x, rfl, he.symm⟩))
  case illegalTrx x g =>
    have hg : 3 ≤ g.toNat := of_decide_eq_true hw
    simp only [State.gateOpen, Instr.extension?, hg, if_true] at h
    injection (gate65x02_open h _ _).symm.trans he with he
    exact .inr (.inr (.inr ⟨x, g, rfl, hg, he.symm⟩))
  case refusedTrx => cases (gate65x02_open h _ _).symm.trans he
  case asl t | lsr t | rol t | ror t =>
    injection he with he
    subst he
    cases t <;> exact .inl ⟨rfl, rfl⟩
  case stz | bra =>
    injection (gate65c02_open h _ _).symm.trans he with he
    subst he
    exact .inl ⟨rfl, rfl⟩
  case movsToSeg g r =>
    injection (gate65x02_open h _ _).symm.trans he with he
    subst he
    cases g <;> exact .inl ⟨rfl, rfl⟩
  case stB | stW | stL =>
    injection (gate65x02_open h _ _).symm.trans he with he
    subst he
    rw [State.stor_eq]
    exact .inl ⟨rfl, rfl⟩
  all_goals first
    | (injection he with he
       subst he
       exact .inl ⟨rfl, rfl⟩)
    | (injection (gate65x02_open h _ _).symm.trans he with he
       subst he
       exact .inl ⟨rfl, rfl⟩)

/-- What a step that answers a next state can have done (R502, R503, R468). -/
theorem step_cases {s t : State} (h : step s = .next t) :
    (s.run = .reset ∧ t = s.performReset) ∨ (s.run = .halt ∧ t = s) ∨
    (s.run = .normal ∧ ∃ i u, decode s.params.ext s.fetchWindow = .instr i ∧ exec i s = .next u ∧
      t = u.charge (s.cycleCost i)) ∨
    (s.run = .normal ∧ ∃ op, decode s.params.ext s.fetchWindow = .illegalOpcode op ∧
      t = (s.illegalOpcode op).charge illegalOpcodeCost) := by
  simp only [step, State.stepNormal, State.retire, State.rejectOpcode] at h
  split at h
  · injection h with h
    exact .inl ⟨by assumption, h.symm⟩
  · injection h with h
    exact .inr (.inl ⟨by assumption, h.symm⟩)
  · split at h
    · rename_i i hi
      refine .inr (.inr (.inl ⟨by assumption, i, ?_⟩))
      cases he : exec i s with
      | next u =>
        rw [he] at h
        injection h with h
        exact ⟨u, hi, rfl, h.symm⟩
      | fault r => cases r
      | refused r =>
        rw [he] at h
        cases h
    · rename_i op hop
      injection h with h
      exact .inr (.inr (.inr ⟨by assumption, op, hop, h.symm⟩))

end Sys2Proof.Machine
end

