-- ==== Sys2Proof/Tests/Slice0.lean ====
section
/-! SUPPORT. Tests, each one step or one operation. The expected results are those of 95_test_vectors.md (the vector
is named) or worked out by hand from the rule named; none is the model's own answer. At the end, one theorem for each
obligation with hypotheses: a concrete state and operands that meet all of them. -/

namespace Sys2Proof.Tests

open Sys2Proof.Machine Sys2Proof.Claims

/-! ## The start state of the vectors -/

/-- An admissible EXT_OPCODE (R145). -/
def exts : ExtOpcodes := ⟨0x03, 0x13, 0x23, 0x33, 0x43, 0x53, 0x63, 0x73, 0x83, 0x93⟩

/-- The conventions of 95_test_vectors.md: Normal, PC = 0x0300, SP = 0x01FF, everything else 0, the gates open. -/
def start : State := { State.reset with pc := 0x0300, params := ⟨exts, true, .identity⟩ }

/-- The start state with the 8-bit view n holding v. -/
def r8 (n : Nat) (v : Byte) (s : State := start) : State := s.setView n v

/-- The start state with the 16-bit view n holding v. -/
def r16 (n : Nat) (v : Half) (s : State := start) : State := s.setView n v

/-- The start state with the 32-bit view n holding v. -/
def r32 (n : Nat) (v : Slot) (s : State := start) : State := s.setView n v

/-- The start state with the flags of a status byte. -/
def withP (p : Byte) (s : State := start) : State := s.setFlags (Flags.unpack p)

/-- The start state with bytes at (g, o). -/
def put (g : Byte) (o : Half) (bs : List Byte) (s : State := start) : State := s.writeBytes g o bs

/-- The bytes stored where the next step fetches. -/
def load (s : State) (bs : List Byte) : State := s.writeBytes s.ps s.pc bs

/-- The outcome is a next state of which p holds. -/
def ran (o : Host.Outcome State Fault Refusal) (p : State → Bool) : Bool :=
  match o with
  | .next t => p t
  | .fault _ => false
  | .refused _ => false

/-- One step over the bytes gives a next state of which p holds. -/
def runs (s : State) (bs : List Byte) (p : State → Bool) : Bool := ran (step (load s bs)) p

/-- The decoding of bytes followed by zeros. -/
def dec (bs : List Byte) : Decoded := decode exts (Window.ofList bs)

/-! ## Ill-formed operand forms -/

/-- A form the encoding tables do not have (R122, R139) is ill-formed and has no bytes. -/
theorem test_illFormed_refused :
    ∀ i ∈ ([.lda (.mem (.zpy 0)), .ldx (.mem (.zpx 0)), .ldx (.mem (.indx 0)), .ldy (.mem (.zpy 0)),
      .ldy (.mem (.absy 0)), .sta (.zpy 0), .stx (.zpx 0), .stx (.absy 0), .sty (.zpy 0),
      .stz (.absy 0), .stz (.indx 0), .adc (.mem (.zpy 0)), .sbc (.mem (.zpy 0)),
      .and (.mem (.zpy 0)), .eor (.mem (.zpy 0)), .ora (.mem (.zpy 0)), .cmp (.mem (.zpy 0)),
      .bit (.zpx 0), .cpx (.mem (.zpx 0)), .cpy (.mem (.absx 0)), .inc (.zpy 0), .dec (.absy 0),
      .asl (.mem (.zpy 0)), .lsr (.mem (.absy 0)), .rol (.mem (.indx 0)), .ror (.mem (.indy 0)),
      .illegalTrx 0 0, .illegalTrx 5 2] : List Instr),
      i.wellFormed = false ∧ encode exts i = [] := by
  decide

theorem test_boundary_forms_accepted :
    ∀ i ∈ ([.lda (.mem (.indy 0xFF)), .ldx (.mem (.zpy 0xFF)), .stz (.absx 0xFFFF), .asl .acc,
      .illegalTrx 15 3, .illegalTrx 0 7] : List Instr), i.wellFormed = true := by
  decide

/-! ## Decoding: every constructor, from a word written out from its encoding -/

/-- R132, R200 to R226. -/
theorem test_decode_loads_stores :
    ∀ p ∈ ([([0xA9, 0x12], .lda (.imm 0x12)), ([0xB1, 0x10], .lda (.mem (.indy 0x10))),
      ([0xB6, 0x20], .ldx (.mem (.zpy 0x20))), ([0xBC, 0x34, 0x12], .ldy (.mem (.absx 0x1234))),
      ([0x99, 0x34, 0x12], .sta (.absy 0x1234)), ([0x81, 0x40], .sta (.indx 0x40)),
      ([0x96, 0x20], .stx (.zpy 0x20)), ([0x94, 0x20], .sty (.zpx 0x20)),
      ([0x9C, 0x34, 0x12], .stz (.abs 0x1234)), ([0xAA], .tax), ([0xA8], .tay), ([0x8A], .txa),
      ([0x98], .tya), ([0xBA], .tsx), ([0x9A], .txs)] :
        List (List Byte × Instr)),
      dec p.1 = .instr p.2 ∧ encode exts p.2 = p.1 := by
  decide

/-- R132, R240 to R255. -/
theorem test_decode_alu :
    ∀ p ∈ ([([0x69, 0x20], .adc (.imm 0x20)), ([0xF1, 0x10], .sbc (.mem (.indy 0x10))),
      ([0x3D, 0x34, 0x12], .and (.mem (.absx 0x1234))), ([0x41, 0x10], .eor (.mem (.indx 0x10))),
      ([0x15, 0x10], .ora (.mem (.zpx 0x10))), ([0x2C, 0x34, 0x12], .bit (.abs 0x1234)),
      ([0xD9, 0x34, 0x12], .cmp (.mem (.absy 0x1234))), ([0xE4, 0x10], .cpx (.mem (.zp 0x10))),
      ([0xCC, 0x34, 0x12], .cpy (.mem (.abs 0x1234))), ([0xF6, 0x10], .inc (.zpx 0x10)),
      ([0xDE, 0x34, 0x12], .dec (.absx 0x1234)), ([0xE8], .inx), ([0xC8], .iny), ([0xCA], .dex),
      ([0x88], .dey)] :
        List (List Byte × Instr)),
      dec p.1 = .instr p.2 ∧ encode exts p.2 = p.1 := by
  decide

/-- R132, R260 to R263. -/
theorem test_decode_shifts :
    ∀ p ∈ ([([0x0A], .asl .acc), ([0x1E, 0x34, 0x12], .asl (.mem (.absx 0x1234))), ([0x4A], .lsr .acc),
      ([0x46, 0x10], .lsr (.mem (.zp 0x10))), ([0x2A], .rol .acc),
      ([0x2E, 0x34, 0x12], .rol (.mem (.abs 0x1234))), ([0x6A], .ror .acc),
      ([0x76, 0x10], .ror (.mem (.zpx 0x10)))] :
        List (List Byte × Instr)),
      dec p.1 = .instr p.2 ∧ encode exts p.2 = p.1 := by
  decide

/-- R132, R290 to R306. -/
theorem test_decode_control :
    ∀ p ∈ ([([0x10, 0xFE], .bpl 0xFE), ([0x30, 0x01], .bmi 0x01), ([0x50, 0x20], .bvc 0x20),
      ([0x70, 0x10], .bvs 0x10), ([0x90, 0x10], .bcc 0x10), ([0xB0, 0x80], .bcs 0x80),
      ([0xD0, 0x80], .bne 0x80), ([0xF0, 0x7F], .beq 0x7F), ([0x80, 0x7F], .bra 0x7F),
      ([0x4C, 0x00, 0x05], .jmpAbs 0x0500), ([0x6C, 0xFF, 0x02], .jmpInd 0x02FF),
      ([0x20, 0x00, 0x40], .jsr 0x4000), ([0x60], .rts), ([0x40], .rti), ([0x00], .brk),
      ([0xEA], .nop)] :
        List (List Byte × Instr)),
      dec p.1 = .instr p.2 ∧ encode exts p.2 = p.1 := by
  decide

/-- R132, R330 to R346. -/
theorem test_decode_stack_flags :
    ∀ p ∈ ([([0x48], .pha), ([0x08], .php), ([0x68], .pla), ([0x28], .plp), ([0x18], .clc), ([0x38], .sec),
      ([0x58], .cli), ([0x78], .sei), ([0xB8], .clv), ([0xD8], .cld), ([0xF8], .sed)] :
        List (List Byte × Instr)),
      dec p.1 = .instr p.2 ∧ encode exts p.2 = p.1 := by
  decide

/-- R137, R139, R360 to R375. -/
theorem test_decode_extension_registers :
    ∀ p ∈ ([([0x03, 0x0B], .movNotB 1 3), ([0x03, 0x4A], .segxB 0x0A), ([0x03, 0x98], .illegalXtop1 0x18),
      ([0x03, 0xC0], .illegalXtop1 0x40), ([0x13, 0x01], .movNotW 0 1), ([0x13, 0x4A], .andW 1 2),
      ([0x13, 0x93], .xorW 2 3), ([0x13, 0xE5], .orW 4 5), ([0x23, 0x00], .movNotL 0 0),
      ([0x23, 0x4A], .andL 1 2), ([0x23, 0x93], .xorL 2 3), ([0x23, 0xF7], .orL 6 7),
      ([0x33, 0x08], .movsToSeg .ps 1), ([0x33, 0x09], .movsToSeg .ds 1),
      ([0x33, 0x5A], .movsFromSeg 3 .ss), ([0x33, 0x0B], .illegalTrx 1 3),
      ([0x33, 0x67], .illegalTrx 12 7), ([0x33, 0x89], .refusedTrx 0x09)] :
        List (List Byte × Instr)),
      dec p.1 = .instr p.2 ∧ encode exts p.2 = p.1 := by
  decide

/-- R138, R142, R390 to R396. -/
theorem test_decode_extension_math :
    ∀ p ∈ ([([0x43, 0x0B], .addB 1 3 none), ([0x43, 0x8B, 0x03], .addB 1 3 (some 0x03)),
      ([0x43, 0xC9, 0x10], .subB 1 1 (some 0x10)),
      ([0x53, 0x80, 0x34, 0x12], .addW 0 0 (some 0x1234)),
      ([0x53, 0xD3, 0xFF, 0x00], .subW 2 3 (some 0x00FF)),
      ([0x63, 0xBF, 0x01, 0x02, 0x03, 0x04], .addL 7 7 (some 0x04030201)),
      ([0x63, 0x41], .subL 0 1 none)] :
        List (List Byte × Instr)),
      dec p.1 = .instr p.2 ∧ encode exts p.2 = p.1 := by
  decide

/-- R140, R142, R400 to R403. -/
theorem test_decode_extension_stores :
    ∀ p ∈ ([([0x73, 0x99, 0x01, 0x40, 0xF0], .stB 1 3 (.far 0x4001 0xF0)),
      ([0x73, 0x29, 0xFF], .stB 1 5 (.zp 0xFF)), ([0x83, 0x4A, 0x00, 0x20], .stW 2 1 (.abs 0x2000)),
      ([0x93, 0xE4, 0xFC], .stL 4 4 (.stack 0xFC))] :
        List (List Byte × Instr)),
      dec p.1 = .instr p.2 ∧ encode exts p.2 = p.1 := by
  decide

/-- R133: bytes with no entry and no family. -/
theorem test_decode_illegal :
    dec [0x02] = .illegalOpcode 0x02 ∧ dec [0xFF] = .illegalOpcode 0xFF ∧ dec [0x89] = .illegalOpcode 0x89 := by
  decide

/-- The host's numbering: a standard row has its opcode in bits 7:0, operand bytes are 0. -/
theorem test_table_words :
    decodeTableWord 8 0xA9 = some (.lda (.imm 0)) ∧ decodeTableWord 8 0x4C = some (.jmpAbs 0) ∧
      ran (step (State.reset.withFetchWord 8 0x38)) (fun t => t.flags.c && t.pc == 1) = true := by
  decide

/-- An extension row has its family byte in bits 15:8 (note 12): XTOP1 0x09 complements A. -/
theorem test_table_word_extension :
    tableBytes exts 16 0x530B = [0x53, 0x0B, 0, 0, 0, 0] ∧
      ran (step (start.withFetchWord 16 0x0309)) (fun t => t.a == 0xFF && t.pc == 0x0302) = true := by
  decide

/-! ## Operations -/

/-- V1, V3, V4, V5, V6, V8: the wraps of the modes. -/
theorem test_modes :
    (put 0 0x0008 [0x77] (r8 3 0x10)).readOp (.mem (.zpx 0xF8)) = 0x77 ∧
      (r8 3 0x02).ea (.absx 0xFFFF) = 0x0001 ∧
      (put 0 0x0002 [0x00, 0x40] (r8 3 0x04)).ea (.indx 0xFE) = 0x4000 ∧
      (put 0 0x00FF [0x00] (put 0 0x0000 [0x50])).ea (.indx 0xFF) = 0x5000 ∧
      (put 0 0x0010 [0xFF, 0x02] (r8 5 0x01)).ea (.indy 0x10) = 0x0300 ∧
      (put 0 0x0205 [0x01] (r8 5 0x05)).readOp (.mem (.absy 0x0200)) = 0x01 := by
  decide

/-- V2, V8, V6, S4: the page of the instruction after the branch counts. -/
theorem test_page_cross :
    (r8 3 0x01).eaCross (.absx 0x02FF) = true ∧ (r8 5 0x05).eaCross (.absy 0x0200) = false ∧
      (put 0 0x0010 [0xFF, 0x02] (r8 5 0x01)).eaCross (.indy 0x10) = true ∧
      start.branchCross 0x02 = false ∧ ({ start with pc := 0x10F0 } : State).branchCross 0x20 = true ∧
      ({ start with pc := 0x02FE } : State).branchCross 0x01 = false := by
  decide

/-- S6, V2, S4, V57, S7, V139, S9, V146. -/
theorem test_recommended_cycles :
    recommendedCost (.adc (.imm 0x20)) ⟨false, false⟩ = 2 ∧
      recommendedCost (.lda (.mem (.absx 0x02FF))) ⟨true, false⟩ = 5 ∧
      recommendedCost (.bvc 0x20) ⟨true, true⟩ = 4 ∧
      recommendedCost (.inc (.absx 0x02FF)) ⟨true, false⟩ = 7 ∧
      recommendedCost .brk ⟨false, false⟩ = 7 ∧ recommendedCost (.subL 0 0 (some 1)) ⟨false, false⟩ = 6 ∧
      recommendedCost (.stB 1 3 (.far 0x4001 0xF0)) ⟨false, false⟩ = 7 ∧
      recommendedCost (.stL 4 4 (.stack 0xFC)) ⟨false, false⟩ = 8 := by
  decide

/-- S2. -/
theorem test_flag_byte :
    (Flags.unpack 0x00).pack = 0x20 ∧ (Flags.unpack 0xFF).pack = 0xFF ∧ (Flags.unpack 0xDF).pack = 0xFF ∧
      (Flags.unpack 0xC1).pack = 0xE1 ∧ (Flags.unpack 0xC1).v = true ∧ (Flags.unpack 0x20).pack = 0x20 := by
  decide

/-- S1. -/
theorem test_set_flags :
    (Flags.clear.setFlags ⟨true, true, false, false⟩ .w8 0x100 0).pack = 0x22 ∧
      (Flags.clear.setFlags ⟨true, true, false, false⟩ .w8 0x80 0).pack = 0xA0 ∧
      (Flags.clear.setFlags ⟨true, true, false, false⟩ .w16 0x10000 0).pack = 0x22 ∧
      (Flags.clear.setFlags ⟨true, true, false, false⟩ .w32 0x80000000 0).pack = 0xA0 := by
  decide

/-- A write past the end of a segment wraps inside it (R80, R94); a zero is not listed (R81). -/
theorem test_memory_canonical :
    (put 3 0xFFFF [0x11, 0x22]).mem = [(0x30000, 0x22), (0x3FFFF, 0x11)] ∧
      (put 0 0x10 [0x00] (put 0 0x10 [0x55])).mem = [] ∧ State.reset.mem.wf = true := by
  decide

/-! ## Loads, stores, transfers -/

/-- V7: operands use DS, the code PS. -/
theorem test_lda_segment :
    runs (put 3 0x1234 [0x80] { start with ds := 3 }) [0xAD, 0x34, 0x12]
        (fun t => t.a == 0x80 && t.flags.pack == 0xA0) = true := by
  decide

/-- V21. -/
theorem test_lda_lane :
    runs start [0xA9, 0x80] (fun t => t.gpr.get 0 == 0x00008000 && t.flags.pack == 0xA0) = true := by
  decide

/-- V22. -/
theorem test_ldx_lane :
    runs start [0xA2, 0xFF] (fun t => t.gpr.get 0 == 0xFF000000 && t.flags.pack == 0xA0) = true := by
  decide

/-- V23: the index wraps to 0x10. -/
theorem test_ldx_zpy :
    runs (put 0 0x10 [0x5A] (r8 5 0xF0)) [0xB6, 0x20] (fun t => t.x == 0x5A && t.flags.pack == 0x20) = true := by
  decide

/-- R202, R34. -/
theorem test_ldy_lane :
    runs start [0xA0, 0x80] (fun t => t.gpr.get 1 == 0x00008000 && t.flags.pack == 0xA0) = true := by
  decide

/-- V24. -/
theorem test_sta_absy :
    runs (r8 5 0x10 (r8 1 0x33)) [0x99, 0x00, 0x02]
        (fun t => t.readByte 0 0x0210 == 0x33 && t.flags.pack == 0x20) = true := by
  decide

/-- V25. -/
theorem test_sta_segment :
    runs (r8 1 0x55 { start with ds := 2 }) [0x8D, 0x00, 0x40]
        (fun t => t.readByte 2 0x4000 == 0x55 && t.readByte 0 0x4000 == 0) = true := by
  decide

/-- V26. -/
theorem test_stx_zpy :
    runs (r8 5 0xF0 (r8 3 0x12)) [0x96, 0x20] (fun t => t.readByte 0 0x0010 == 0x12 && t.pc == 0x0302) = true := by
  decide

/-- R212. -/
theorem test_sty_zp :
    runs (r8 5 0x34) [0x84, 0x10] (fun t => t.readByte 0 0x0010 == 0x34 && t.pc == 0x0302) = true := by
  decide

/-- V27. -/
theorem test_stz :
    runs (put 0 0x3000 [0x55]) [0x9C, 0x00, 0x30] (fun t => t.readByte 0 0x3000 == 0 && t.pc == 0x0303) = true := by
  decide

/-- V28. -/
theorem test_stz_gate :
    runs (put 0 0x3000 [0x55] (start.setConfig { start.config with allow65c02 := false })) [0x9C, 0x00, 0x30]
        (fun t => t.run == .halt && t.pc == 0x0301 && t.readByte 0 0x3000 == 0x55 && t.cycles == 1) = true := by
  decide

/-- R220. -/
theorem test_tax : runs (r8 1 0x9C) [0xAA] (fun t => t.x == 0x9C && t.flags.pack == 0xA0) = true := by decide

/-- V29. -/
theorem test_tay :
    runs (r8 1 0x9C) [0xA8] (fun t => t.gpr.get 1 == 0x00009C00 && t.flags.pack == 0xA0) = true := by
  decide

/-- R222. -/
theorem test_txa : runs (r8 3 0x00 (r8 1 0x55)) [0x8A] (fun t => t.a == 0 && t.flags.pack == 0x22) = true := by decide

/-- R223. -/
theorem test_tya :
    runs (r8 5 0x81 (r8 1 0x55)) [0x98] (fun t => t.a == 0x81 && t.flags.pack == 0xA0) = true := by
  decide

/-- V30. -/
theorem test_tsx :
    runs ({ start with sp := 0x01FC }) [0xBA] (fun t => t.x == 0xFC && t.flags.pack == 0xA0) = true := by
  decide

/-- V31. -/
theorem test_txs_identity :
    runs (r8 3 0xFF { start with sp := 0x0100 }) [0x9A] (fun t => t.sp == 0x01FF && t.flags.pack == 0x20) = true := by
  decide

/-- V31. -/
theorem test_txs_const00 :
    runs (r8 3 0xFF { start with sp := 0x0100, params := ⟨exts, true, .const00⟩ }) [0x9A]
        (fun t => t.sp == 0x00FF) = true := by
  decide

/-! ## Arithmetic, logic, shifts -/

/-- S6, cycles included. -/
theorem test_adc_scenario :
    runs (r8 1 0x40) [0x69, 0x20]
        (fun t => t.gpr.get 0 == 0x00006000 && t.flags.pack == 0x20 && t.pc == 0x0302 && t.cycles == 2) = true := by
  decide

/-- V41: V becomes 0. -/
theorem test_adc_no_overflow :
    runs (withP 0x40 (r8 1 0x7F)) [0x69, 0x01] (fun t => t.a == 0x80 && t.flags.pack == 0xA0) = true := by
  decide

/-- V45. -/
theorem test_sbc_borrow :
    runs (withP 0x01 (r8 1 0x10)) [0xE9, 0x20] (fun t => t.a == 0xF0 && t.flags.pack == 0xA0) = true := by
  decide

/-- V46. -/
theorem test_sbc_carry_in : runs start [0xE9, 0x00] (fun t => t.a == 0xFF && t.flags.pack == 0xA0) = true := by decide

/-- V48. -/
theorem test_and : runs (r8 1 0xF0) [0x29, 0x3C] (fun t => t.a == 0x30 && t.flags.pack == 0x20) = true := by decide

/-- V49. -/
theorem test_eor : runs (r8 1 0xFF) [0x49, 0x0F] (fun t => t.a == 0xF0 && t.flags.pack == 0xA0) = true := by decide

/-- V50. -/
theorem test_ora : runs (r8 1 0x01) [0x09, 0x80] (fun t => t.a == 0x81 && t.flags.pack == 0xA0) = true := by decide

/-- V51. -/
theorem test_bit :
    runs (put 0 0x10 [0xC0] (r8 1 0x0F)) [0x24, 0x10] (fun t => t.a == 0x0F && t.flags.pack == 0xE2) = true := by
  decide

/-- V52. -/
theorem test_cmp_equal : runs (r8 1 0x10) [0xC9, 0x10] (fun t => t.flags.pack == 0x23) = true := by decide

/-- V53. -/
theorem test_cmp_less :
    runs (r8 1 0x10) [0xC9, 0x20] (fun t => t.a == 0x10 && t.flags.pack == 0xA0) = true := by
  decide

/-- V55. -/
theorem test_cpx : runs (r8 3 0x05) [0xE0, 0x0A] (fun t => t.flags.pack == 0xA0) = true := by decide

/-- V56. -/
theorem test_cpy : runs (r8 5 0xFF) [0xC0, 0xFF] (fun t => t.flags.pack == 0x23) = true := by decide

/-- R250, R127 (V57 with another address). -/
theorem test_inc_absx :
    runs (r8 3 0x01 (put 0 0x0400 [0xFF])) [0xFE, 0xFF, 0x03]
        (fun t => t.readByte 0 0x0400 == 0 && t.flags.pack == 0x22) = true := by
  decide

/-- V58. -/
theorem test_dec :
    runs start [0xC6, 0x10] (fun t => t.readByte 0 0x10 == 0xFF && t.flags.pack == 0xA0) = true := by
  decide

/-- V59: only bits 31:24 change. -/
theorem test_inx :
    runs (r8 1 0xFF (r8 3 0xFF)) [0xE8] (fun t => t.gpr.get 0 == 0x0000FF00 && t.flags.pack == 0x22) = true := by
  decide

/-- R253: C is kept. -/
theorem test_iny :
    runs (withP 0x01 (r8 5 0x7F)) [0xC8] (fun t => t.y == 0x80 && t.flags.pack == 0xA1) = true := by
  decide

/-- R254. -/
theorem test_dex : runs (r8 3 0x01) [0xCA] (fun t => t.x == 0 && t.flags.pack == 0x22) = true := by decide

/-- V60. -/
theorem test_dey : runs start [0x88] (fun t => t.y == 0xFF && t.flags.pack == 0xA0) = true := by decide

/-- V61. -/
theorem test_asl_acc : runs (r8 1 0x80) [0x0A] (fun t => t.a == 0 && t.flags.pack == 0x23) = true := by decide

/-- R260. -/
theorem test_asl_mem :
    runs (put 0 0x10 [0x41]) [0x06, 0x10] (fun t => t.readByte 0 0x10 == 0x82 && t.flags.pack == 0xA0) = true := by
  decide

/-- V62. -/
theorem test_lsr_acc : runs (r8 1 0x01) [0x4A] (fun t => t.a == 0 && t.flags.pack == 0x23) = true := by decide

/-- V63. -/
theorem test_rol_acc :
    runs (withP 0x01 (r8 1 0x80)) [0x2A] (fun t => t.a == 0x01 && t.flags.pack == 0x21) = true := by
  decide

/-- V64. -/
theorem test_ror_acc :
    runs (withP 0x01 (r8 1 0x01)) [0x6A] (fun t => t.a == 0x80 && t.flags.pack == 0xA1) = true := by
  decide

/-- R263. -/
theorem test_ror_mem :
    runs (put 0 0x10 [0x02]) [0x66, 0x10] (fun t => t.readByte 0 0x10 == 0x01 && t.flags.pack == 0x20) = true := by
  decide

/-! ## Control -/

/-- V70: it loops on itself. -/
theorem test_bpl : runs start [0x10, 0xFE] (fun t => t.pc == 0x0300) = true := by decide

/-- R291. -/
theorem test_bmi : runs (withP 0x80) [0x30, 0x10] (fun t => t.pc == 0x0312) = true := by decide

/-- S4. -/
theorem test_bvc : runs ({ start with pc := 0x10F0 }) [0x50, 0x20] (fun t => t.pc == 0x1112) = true := by decide

/-- V72: not taken. -/
theorem test_bvs : runs start [0x70, 0x10] (fun t => t.pc == 0x0302) = true := by decide

/-- V11: the offset wraps in PS. -/
theorem test_bcc : runs ({ start with pc := 0xFFFE }) [0x90, 0x10] (fun t => t.pc == 0x0010) = true := by decide

/-- V71. -/
theorem test_bcs : runs (withP 0x01) [0xB0, 0x80] (fun t => t.pc == 0x0282) = true := by decide

/-- S4. -/
theorem test_bne : runs ({ start with pc := 0x0310 }) [0xD0, 0x80] (fun t => t.pc == 0x0292) = true := by decide

/-- V10. -/
theorem test_beq : runs (withP 0x02) [0xF0, 0x7F] (fun t => t.pc == 0x0381) = true := by decide

/-- V73. -/
theorem test_bra : runs start [0x80, 0x7F] (fun t => t.pc == 0x0381) = true := by decide

/-- V74. -/
theorem test_bra_gate :
    runs (start.setConfig { start.config with allow65c02 := false }) [0x80, 0x7F]
        (fun t => t.run == .halt && t.pc == 0x0301 && t.cycles == 1) = true := by
  decide

/-- V75. -/
theorem test_jmp :
    runs ({ start with ps := 4 }) [0x4C, 0x00, 0x05] (fun t => t.pc == 0x0500 && t.ps == 4) = true := by
  decide

/-- V9, JMP_IND_PAGE_WRAP = true. -/
theorem test_jmp_indirect_wrap :
    runs (put 0 0x02FF [0x34] (put 0 0x0200 [0x12])) [0x6C, 0xFF, 0x02] (fun t => t.pc == 0x1234) = true := by
  decide

/-- V9, JMP_IND_PAGE_WRAP = false. -/
theorem test_jmp_indirect_plain :
    runs (put 0 0x02FF [0x34] (put 0 0x0200 [0x12] { start with params := ⟨exts, false, .identity⟩ }))
        [0x6C, 0xFF, 0x02] (fun t => t.pc == 0x6C34) = true := by
  decide

/-- V76. -/
theorem test_jsr :
    runs start [0x20, 0x00, 0x40]
        (fun t => t.readLE 0 0x01FE 2 == 0x0302 && t.sp == 0x01FD && t.pc == 0x4000) = true := by
  decide

/-- V79. -/
theorem test_jsr_segment :
    runs ({ start with ss := 2 }) [0x20, 0x00, 0x40]
        (fun t => t.readByte 2 0x01FF == 0x03 && t.readByte 2 0x01FE == 0x02) = true := by
  decide

/-- V77. -/
theorem test_rts :
    runs (put 0 0x01FE [0x02, 0x03] { start with sp := 0x01FD }) [0x60]
        (fun t => t.pc == 0x0303 && t.sp == 0x01FF) = true := by
  decide

/-- V78. -/
theorem test_rti :
    runs (put 0 0x01FD [0xC3, 0x02, 0x03] { start with sp := 0x01FC, ds := 9 }) [0x40]
        (fun t => t.flags.pack == 0xE3 && t.pc == 0x0302 && t.sp == 0x01FF && t.ds == 9) = true := by
  decide

/-- S7. -/
theorem test_brk_scenario :
    runs (put 0 0xFFFE [0x00, 0x03]) [0x00]
        (fun t => t.readLE 0 0x01FD 3 == 0x030220 && t.sp == 0x01FC && t.flags.i && t.pc == 0x0300 &&
        t.run == .normal) = true := by
  decide

/-- S7, the variants with haltOnBRK, PS and SS. -/
theorem test_brk_segments :
    runs (put 0 0xFFFE [0x00, 0x03] { start.setHaltOnBRK true with ps := 7, ds := 3, ss := 5 }) [0x00]
        (fun t => t.readLE 5 0x01FD 3 == 0x030220 && t.ps == 0 && t.ds == 0 && t.ss == 0 && t.pc == 0x0300 &&
        t.run == .halt) = true := by
  decide

/-- S3. -/
theorem test_nop : runs start [0xEA] (fun t => t.pc == 0x0301 && t.flags.pack == 0x20) = true := by decide

/-! ## Stack and flags -/

/-- V90: the low byte wraps. -/
theorem test_pha :
    runs (r8 1 0x42 { start with sp := 0x0100 }) [0x48]
        (fun t => t.readByte 0 0x0100 == 0x42 && t.sp == 0x01FF) = true := by
  decide

/-- V91. -/
theorem test_pla :
    runs (put 0 0x0100 [0x80]) [0x68] (fun t => t.a == 0x80 && t.flags.pack == 0xA0 && t.sp == 0x0100) = true := by
  decide

/-- V92. -/
theorem test_php :
    runs (withP 0x03) [0x08] (fun t => t.readByte 0 0x01FF == 0x23 && t.sp == 0x01FE) = true := by
  decide

/-- V93. -/
theorem test_plp :
    runs (put 0 0x01FF [0x10] { start with sp := 0x01FE }) [0x28]
        (fun t => t.flags.pack == 0x30 && t.sp == 0x01FF) = true := by
  decide

/-- V94, one step. -/
theorem test_clc : runs (withP 0xFF) [0x18] (fun t => t.flags.pack == 0xFE) = true := by decide

/-- V94, one step. -/
theorem test_cli : runs (withP 0xFF) [0x58] (fun t => t.flags.pack == 0xFB) = true := by decide

/-- V94, one step. -/
theorem test_clv : runs (withP 0xFF) [0xB8] (fun t => t.flags.pack == 0xBF) = true := by decide

/-- V94, one step. -/
theorem test_cld : runs (withP 0xFF) [0xD8] (fun t => t.flags.pack == 0xF7) = true := by decide

/-- V95, one step. -/
theorem test_sec : runs (withP 0x20) [0x38] (fun t => t.flags.pack == 0x21) = true := by decide

/-- V95, one step. -/
theorem test_sei : runs (withP 0x20) [0x78] (fun t => t.flags.pack == 0x24) = true := by decide

/-- V95, one step. -/
theorem test_sed : runs (withP 0x20) [0xF8] (fun t => t.flags.pack == 0x28) = true := by decide

/-! ## Extension: registers -/

/-- V100. -/
theorem test_mov_b : runs (r8 3 0x5A) [0x03, 0x0B] (fun t => t.a == 0x5A && t.flags.pack == 0x20) = true := by decide

/-- V101. -/
theorem test_not_b : runs (r8 1 0x0F) [0x03, 0x09] (fun t => t.a == 0xF0 && t.flags.pack == 0x20) = true := by decide

/-- V102. -/
theorem test_segx :
    runs (withP 0xFF (r8 1 0x0F)) [0x03, 0x4A]
        (fun t => t.pc == 0x0302 && t.gpr.get 0 == 0x00000F00 && t.flags.pack == 0xFF) = true := by
  decide

/-- V103. -/
theorem test_illegal_xtop1 :
    runs start [0x03, 0x98] (fun t => t.run == .halt && t.pc == 0x0302 && t.cycles == 2) = true := by
  decide

/-- V104. -/
theorem test_illegal_xtop1_ignored :
    runs (start.setConfig { start.config with ignoreIllegalInstructions := true }) [0x03, 0xC0]
        (fun t => t.run == .normal && t.pc == 0x0302) = true := by
  decide

/-- V105. -/
theorem test_mov_w : runs (r32 0 0x12345678) [0x13, 0x01] (fun t => t.gpr.get 0 == 0x12341234) = true := by decide

/-- V106. -/
theorem test_not_w : runs (r16 3 0x00FF) [0x13, 0x1B] (fun t => t.view 16 3 == 0xFF00) = true := by decide

/-- V107. -/
theorem test_and_w :
    runs (r16 0 0x1234 (r16 1 0x0FF0)) [0x13, 0x41] (fun t => t.view 16 0 == 0x0230) = true := by
  decide

/-- V108. -/
theorem test_xor_w :
    runs (r16 2 0xAAAA (r16 3 0xFFFF)) [0x13, 0x93] (fun t => t.view 16 2 == 0x5555) = true := by
  decide

/-- V109. -/
theorem test_or_w :
    runs (r16 4 0x0F00 (r16 5 0x00F0)) [0x13, 0xE5] (fun t => t.view 16 4 == 0x0FF0) = true := by
  decide

/-- V110. -/
theorem test_not_l : runs (r32 0 0x12345678) [0x23, 0x00] (fun t => t.gpr.get 0 == 0xEDCBA987) = true := by decide

/-- V111. -/
theorem test_and_l :
    runs (r32 1 0xFFFF0000 (r32 2 0x12345678)) [0x23, 0x4A] (fun t => t.gpr.get 1 == 0x12340000) = true := by
  decide

/-- V112. -/
theorem test_xor_l :
    runs (r32 0 0xFF00AB00) [0x23, 0x80] (fun t => t.gpr.get 0 == 0 && t.flags.pack == 0x20) = true := by
  decide

/-- V113. -/
theorem test_or_l :
    runs (r32 6 0x80000000 (r32 7 1)) [0x23, 0xF7] (fun t => t.gpr.get 6 == 0x80000001) = true := by
  decide

/-- V114. -/
theorem test_movs_ps : runs (r8 1 0x07) [0x33, 0x08] (fun t => t.ps == 7 && t.pc == 0x0302) = true := by decide

/-- V116. -/
theorem test_movs_from_ss :
    runs ({ start with ss := 7 }) [0x33, 0x5A] (fun t => t.x == 7 && t.flags.pack == 0x20) = true := by
  decide

/-- V117. -/
theorem test_illegal_trx :
    runs start [0x33, 0x0B] (fun t => t.run == .halt && t.pc == 0x0302 && t.ps == 0) = true := by
  decide

/-- V119. -/
theorem test_extension_gate :
    runs (start.setConfig { start.config with allow65x02 := false }) [0x03, 0x09]
        (fun t => t.run == .halt && t.pc == 0x0301 && t.a == 0) = true := by
  decide

/-- V118. -/
theorem test_refused_trx : step (load start [0x33, 0x89]) = .refused .trxReservedBit := by rfl

/-! ## Extension: math and stores -/

/-- V131. -/
theorem test_add_b_no_carry_in :
    runs (withP 0x01 (r8 1 0x80)) [0x43, 0x09] (fun t => t.a == 0x80 && t.flags.pack == 0xA0) = true := by
  decide

/-- V132. -/
theorem test_add_b_constant :
    runs (r8 1 0x01 (r8 3 0x02)) [0x43, 0x8B, 0x03] (fun t => t.a == 0x06 && t.pc == 0x0303) = true := by
  decide

/-- S5. -/
theorem test_sub_b_self_constant :
    runs (r8 1 0x10) [0x43, 0xC9, 0x10] (fun t => t.a == 0 && t.flags.pack == 0x23) = true := by
  decide

/-- V133. -/
theorem test_sub_b :
    runs (r8 1 0x10 (r8 3 0x20)) [0x43, 0x4B] (fun t => t.a == 0xF0 && t.flags.pack == 0xA0) = true := by
  decide

/-- S5. -/
theorem test_add_w :
    runs (r16 0 0xFFFF) [0x53, 0x80, 0x34, 0x12] (fun t => t.view 16 0 == 0x1233 && t.flags.pack == 0x21) = true := by
  decide

/-- V136. -/
theorem test_sub_w :
    runs (r16 2 0x0100 (r16 3 0x0001)) [0x53, 0xD3, 0xFF, 0x00]
        (fun t => t.view 16 2 == 0 && t.flags.pack == 0x23 && t.pc == 0x0304) = true := by
  decide

/-- V137. -/
theorem test_add_l :
    runs (r32 7 0xFFFFFFFF) [0x63, 0xBF, 0x01, 0x00, 0x00, 0x00]
        (fun t => t.gpr.get 7 == 0 && t.flags.pack == 0x23 && t.pc == 0x0306) = true := by
  decide

/-- V138. -/
theorem test_sub_l :
    runs (r32 0 5 (r32 1 7)) [0x63, 0x41] (fun t => t.gpr.get 0 == 0xFFFFFFFE && t.flags.pack == 0xA0) = true := by
  decide

/-- V139. -/
theorem test_sub_l_constant :
    runs (withP 0x40 (r32 0 0x80000000)) [0x63, 0xC0, 0x01, 0x00, 0x00, 0x00]
        (fun t => t.gpr.get 0 == 0x7FFFFFFF && t.flags.pack == 0x21) = true := by
  decide

/-- S9. -/
theorem test_st_b_scenario :
    runs (r8 1 0x55 (r8 3 0xFF)) [0x73, 0x99, 0x01, 0x40, 0xF0]
        (fun t => t.readByte 0xF0 0x4000 == 0x55 && t.pc == 0x0305 && t.ds == 0) = true := by
  decide

/-- V140: mode 0 leaves page 0. -/
theorem test_st_b_zero_page :
    runs (r8 1 0xAB (r8 5 0x02)) [0x73, 0x29, 0xFF] (fun t => t.readByte 0 0x0101 == 0xAB) = true := by
  decide

/-- V144. -/
theorem test_st_w_wraps :
    runs (r16 2 0xBEEF { start with ds := 1 }) [0x83, 0x52, 0xFF, 0xFF]
        (fun t => t.readByte 1 0xFFFF == 0xEF && t.readByte 1 0x0000 == 0xBE) = true := by
  decide

/-- V147. -/
theorem test_st_w_signed_index :
    runs (r16 1 0x01FF (r16 2 0xBEEF)) [0x83, 0x4A, 0x00, 0x20]
        (fun t => t.readByte 0 0x1FFF == 0xEF && t.readByte 0 0x2000 == 0xBE) = true := by
  decide

/-- V146. -/
theorem test_st_l_stack :
    runs (r32 4 0x11223344 { start with sp := 0x01F0 }) [0x93, 0xE4, 0xFC]
        (fun t => t.readLE 0 0x01EC 4 == 0x11223344 && t.sp == 0x01F0) = true := by
  decide

/-! ## Exceptions, reset, host -/

/-- S10. -/
theorem test_illegal_ignored :
    runs (start.setConfig { start.config with ignoreIllegalInstructions := true }) [0x02]
        (fun t => t.run == .normal && t.pc == 0x0301 && t.cycles == 1) = true := by
  decide

/-- S10, R455. -/
theorem test_illegal_halt :
    runs start [0x02]
        (fun t => t.run == .halt && t.pc == 0x0301 && t.lastIllegal == some ⟨.opcode, 0, 0x300, [2]⟩) = true := by
  decide +kernel

/-- S10. -/
theorem test_illegal_reset :
    runs (start.setConfig { start.config with allowHalting := false }) [0x02]
        (fun t => t.run == .reset && t.pc == 0x0301) = true := by
  decide

/-- V161, S8. -/
theorem test_reset_step :
    runs (put 0 0xFFFC [0x00, 0x03] (withP 0xFF (r8 1 0x55 { start with run := .reset, ds := 7 }))) [0x02]
        (fun t => t.pc == 0x0300 && t.run == .normal && t.ds == 0 && t.gpr.get 0 == 0 &&
        t.flags.pack == 0x20) = true := by
  decide

/-- R455: reset() leaves the record alone, init() clears it. -/
theorem test_reset_record :
    (({ start with lastIllegal := some ⟨.opcode, 0, 0x300, [2]⟩ } : State).performReset.lastIllegal.isSome) = true ∧
      ({ start with lastIllegal := some ⟨.opcode, 0, 0x300, [2]⟩ } : State).init.lastIllegal = none := by
  decide

/-- R94: the write wraps inside its segment. -/
theorem test_program :
    ((start.program 1 0xFFFF [0xAA, 0xBB]).2 = 0x0001 ∧
      (start.program 1 0xFFFF [0xAA, 0xBB]).1.readByte 1 0x0000 = 0xBB) := by
  decide

/-- V164, with the flags of the start state: it un-halts, runs the BRK and restores haltOnBRK. -/
theorem test_run_to_break :
    (match executeUntilBreak 1 (put 0 0xFFFE [0, 4] { start with run := .halt, pc := 0x0400, sp := 0x01FC }) with
      | some (.next t) => t.run == .halt && t.sp == 0x01F9 && t.readLE 0 0x01FA 3 == 0x040220 &&
        !t.config.haltOnBRK
      | _ => false) = true := by
  decide

/-- R467, R500. -/
theorem test_construct :
    (State.construct start.config start.params).run = .reset ∧
      (State.construct start.config start.params).mem = [] := by
  decide

/-! ## A witness for the hypotheses of each obligation that has them -/

theorem witness_DecodeEncodeAgree :
    exts.wf = true ∧ (Instr.lda (.mem (.absx 0xFFFF))).wellFormed = true ∧
      (Instr.subL 7 0 (some 0xFFFFFFFF)).wellFormed = true := by
  decide

theorem witness_DecodedBytesEncodeBack :
    dec [0x63, 0xF8, 0xFF, 0xFF, 0xFF, 0xFF] = .instr (.subL 7 0 (some 0xFFFFFFFF)) := by
  decide

/-- Both sides hold of 0x02. -/
theorem witness_IllegalBytesAreTheFreeOnes :
    dec [0x02] = .illegalOpcode 0x02 ∧ (0x02#8) ∈ freeBytes ∧ (0x02#8) ∉ exts.bytes := by
  decide

theorem witness_StepRunsTheDecodedInstruction :
    start.mem.wf = true ∧ (0 < 6 ∧ 5 < 6) ∧
      ({ start with pc := 0xFFFB } : State).fetchWindow.b5 = start.readByte 0 0x0000 ∧
      start.run = .normal ∧
      decode start.params.ext (load start [0x69, 0x20]).fetchWindow = .instr (.adc (.imm 0x20)) ∧
      decode start.params.ext (load start [0x02]).fetchWindow = .illegalOpcode 0x02 := by
  decide

theorem witness_ResetStepPerformsReset : ({ start with run := .reset } : State).run = .reset := by decide

theorem witness_HaltStepChangesNothing : ({ start with run := .halt } : State).run = .halt := by decide

theorem witness_StepKeepsInvariant :
    ((load start [0x8D, 0x00, 0x40]).mem.wf = true ∧ start.params.ext.wf = true ∧
      recordOk start.lastIllegal = true) ∧
      runs start [0x8D, 0x00, 0x40] (fun _ => true) = true := by
  decide

/-- Both cases occur. -/
theorem witness_StepStopsOnlyAtTheReservedBit :
    runs start [0xEA] (fun _ => true) = true ∧ step (load start [0x33, 0x80]) = .refused .trxReservedBit := by
  exact ⟨by decide, by rfl⟩

/-- Both ways out of Normal, and both kinds of illegal instruction. -/
theorem witness_NormalIsLeftOnlyByBreakOrIllegal :
    start.run = .normal ∧ start.params.ext.wf = true ∧
      runs (start.setHaltOnBRK true) [0x00] (fun t => t.run != .normal) = true ∧
      runs start [0x02] (fun t => t.run != .normal) = true ∧
      runs start [0x03, 0x80] (fun t => t.run != .normal) = true := by
  decide

/-- The three cases of R451. -/
theorem witness_illegalOpcodeAt :
    illegalOpcodeAt (load start [0x02]) ∧
      illegalOpcodeAt (load (start.setConfig { start.config with allow65c02 := false }) [0x9E]) ∧
      illegalOpcodeAt (load (start.setConfig { start.config with allow65x02 := false }) [0x93]) := by
  unfold illegalOpcodeAt; decide

/-- The two cases of R452, at the ends of their ranges. -/
theorem witness_illegalSubopAt :
    illegalSubopAt (load start [0x03, 0x80]) ∧ illegalSubopAt (load start [0x33, 0x03]) ∧
      illegalSubopAt (load start [0x33, 0x7F]) := by
  unfold illegalSubopAt; decide

theorem witness_WritersOfSegmentsAndStackPage :
    start.run = .normal ∧ runs { start with ds := 1 } [0x00] (fun t => t.ds != 1) = true ∧
      runs (r8 1 7) [0x33, 0x08] (fun t => t.ps != 0) = true ∧
      runs { start with params := ⟨exts, true, .const00⟩ } [0x9A] (fun t => hi8 t.sp != hi8 start.sp) = true := by
  decide

/-- One witness for each clause. -/
theorem witness_WritersOfTheFlags :
    start.run = .normal ∧ start.flags.v = false ∧
      dec [0xA9, 0x80] = .instr (.lda (.imm 0x80)) ∧ runs start [0xA9, 0x80] (fun t => t.flags.n) = true ∧
      dec [0xA9, 0x00] = .instr (.lda (.imm 0x00)) ∧ runs start [0xA9, 0x00] (fun t => t.flags.z) = true ∧
      dec [0xB8] = .instr .clv ∧ runs (withP 0x60) [0xB8] (fun t => !t.flags.v) = true ∧
      dec [0x38] = .instr .sec ∧ runs start [0x38] (fun t => t.flags.c) = true ∧
      dec [0x24, 0x10] = .instr (.bit (.zp 0x10)) ∧
      runs (put 0 0x10 [0x40]) [0x24, 0x10] (fun t => t.flags.v) = true ∧
      dec [0x28] = .instr .plp ∧ runs (put 0 0x0100 [0x10]) [0x28] (fun t => t.flags.b) = true ∧
      dec [0xF8] = .instr .sed ∧ runs start [0xF8] (fun t => t.flags.d) = true ∧
      dec [0x78] = .instr .sei ∧ runs start [0x78] (fun t => t.flags.i) = true ∧
      (Instr.xorL 0 0).extension?.isSome = true ∧ isMath (.xorL 0 0) = false ∧
      dec [0x23, 0x80] = .instr (.xorL 0 0) ∧
      runs start [0x23, 0x80] (fun _ => true) = true := by
  decide

theorem witness_OnlyStoresWriteMemory :
    start.run = .normal ∧ runs (r8 1 0x55) [0x85, 0x10]
      (fun t => t.readByte 0 0x10 != start.readByte 0 0x10) = true := by
  decide

theorem witness_CycleCounterAdvances : start.run = .normal ∧ runs start [0xEA] (fun _ => true) = true := by decide

theorem witness_PcMovesPastTheInstruction :
    (Instr.stB 1 3 (.far 0x4001 0xF0)).wellFormed = true ∧ start.gateOpen (.stB 1 3 (.far 0x4001 0xF0)) = true ∧
      writesFlow (.stB 1 3 (.far 0x4001 0xF0)) = false ∧
      ran (exec (.stB 1 3 (.far 0x4001 0xF0)) start) (fun _ => true) = true := by
  decide

/-- The fields of a STOR with an index differ, and the lists have members. -/
theorem witness_CycleCostsMeetTheConstraints :
    (3 : RegField) ≠ 1 ∧ (0 : RegField) ≠ 7 ∧
      Instr.lda (.mem (.absx 0x02FF)) ∈ indexedReads (.mem (.absx 0x02FF)) ∧
      Instr.adc (.imm 0) ∈ indexedReads (.imm 0) ∧ (branches 0xFE).length = 9 := by
  decide

theorem witness_RecommendedCyclesAreAdmitted :
    (Instr.adc (.imm 0)).wellFormed = true ∧ (Instr.ldx (.mem (.absy 0x02FF))).wellFormed = true := by
  decide

/-- The first and the last selector of each width, and a bit outside the view. -/
theorem witness_RegisterViewsFollowTheFile :
    (31 < 256 / 8 ∧ ((7 : Fin 8) : Nat) = 31 / (32 / 8)) ∧ (15 < 256 / 16 ∧
      ((7 : Fin 8) : Nat) = 15 / (32 / 16)) ∧
      (7 < 256 / 32 ∧ ((7 : Fin 8) : Nat) = 7 / (32 / 32)) ∧ (0 < 256 / 8 ∧
      ((0 : Fin 8) : Nat) = 0 / (32 / 8)) ∧
      ¬((7 : Fin 8) = 7 ∧ 8 * (31 % (32 / 8)) ≤ 23 ∧ 23 < 8 * (31 % (32 / 8)) + 8) := by
  decide

/-- (0, 0) lies outside the byte at (0xFF, 0xFFFF). -/
theorem witness_MemWriteChangesOneByte :
    start.mem.wf = true ∧ ∀ k < 1, ¬((0 : Byte) = 0xFF ∧ (0x0000 : Half) = 0xFFFF + BitVec.ofNat 16 k) := by
  decide

/-- Both sizes, the last byte of each, and a write that wraps. -/
theorem witness_MultiByteAccessWrapsInSegment :
    start.mem.wf = true ∧ ((2 = 2 ∨ 2 = 4) ∧ (1 < 2)) ∧ ((4 = 2 ∨ 4 = 4) ∧ (3 < 4)) ∧
      (start.writeLE 3 0xFFFF 2 (0xBEEF : Slot)).readByte 3 0x0000 = 0xBE := by
  decide

/-- Both ends of the page. -/
theorem witness_PushAndPopStayInThePage :
    ({ start with sp := 0x0100 } : State).mem.wf = true ∧ ({ start with sp := 0x01FF } : State).mem.wf = true := by
  decide

theorem witness_StoreAddressesFollowTheModes :
    (8 ∈ [8, 16, 32]) ∧ (16 ∈ [8, 16, 32]) ∧ (32 ∈ [8, 16, 32]) := by
  decide

/-- The last offset of the segment. -/
theorem witness_StoresWriteOneByte : (r8 1 0x33).mem.wf = true ∧ (start.ea (.absy 0xFFFF) = 0xFFFF) := by decide

theorem witness_StzStoresZeroBehindItsGate :
    start.config.allow65c02 = true ∧ start.mem.wf = true ∧
      ({ start with config := { start.config with allow65c02 := false } } : State).config.allow65c02 = false ∧
      (Instr.stz (.abs 0x3000)).opcode? = some 0x9C := by
  decide

/-- One witness for each clause. -/
theorem witness_StackPointerTransfers :
    ({ start with params := ⟨exts, true, .identity⟩ } : State).params.txsSpHigh = .identity ∧
      ({ start with params := ⟨exts, true, .const01⟩ } : State).params.txsSpHigh = .const01 ∧
      ({ start with params := ⟨exts, true, .const00⟩ } : State).params.txsSpHigh = .const00 := by
  decide

/-- One witness for each clause. -/
theorem witness_AdcAddsWithCarry : (withP 0x20).flags.d = false ∧ (withP 0x28).flags.d = true := by decide

/-- One witness for each clause. -/
theorem witness_SbcSubtractsWithBorrow : (withP 0x21).flags.d = false ∧ (withP 0x29).flags.d = true := by decide

/-- A byte at the end of the zero page that wraps. -/
theorem witness_IncDecModifyMemory :
    (put 0 0x00FF [0xFF]).mem.wf = true ∧ (put 0 0x00FF [0xFF]).readMem (.zp 0xFF) = 0xFF := by
  decide

theorem witness_ShiftsAndRotatesMoveOneBit :
    (put 0 0x00FF [0x81]).mem.wf = true ∧ (put 0 0x00FF [0x81]).readMem (.zp 0xFF) = 0x81 := by
  decide

theorem witness_BraBranchesBehindItsGate :
    start.config.allow65c02 = true ∧
      ({ start with config := { start.config with allow65c02 := false } } : State).config.allow65c02 = false := by
  decide

/-- The byte below the two pushed ones is outside them. -/
theorem witness_JsrPushesItsReturnAddress :
    start.mem.wf = true ∧ ¬((0 : Byte) = start.ss ∧
      ((0x01FD : Half) = start.sp ∨ (0x01FD : Half) = stackDown start.sp 1)) := by
  decide

theorem witness_ReturnUndoesCall :
    start.mem.wf = true ∧ ran (exec (.jsr 0x4000) start) (fun t => ran (exec .rts t)
      (fun u => u.pc == 0x0303)) = true := by
  decide

/-- The byte below the three pushed ones is outside them. -/
theorem witness_BreakTakesTheTrap :
    start.mem.wf = true ∧ ¬((0 : Byte) = start.ss ∧
      ((0x01FC : Half) = start.sp ∨ (0x01FC : Half) = stackDown start.sp 1 ∨
      (0x01FC : Half) = stackDown start.sp 2)) := by
  decide

theorem witness_ReturnUndoesBreak :
    start.mem.wf = true ∧ start.ss = 0 ∧ ran (exec .brk start) (fun t => ran (exec .rti t)
      (fun u => u.pc == 0x0302)) = true := by
  decide

/-- Both ends of the page. -/
theorem witness_StackInstructionsMoveOneByte :
    ({ start with sp := 0x0100 } : State).mem.wf = true ∧ stackDown 0x0100 1 = 0x01FF ∧
      stackUp 0x01FF 1 = 0x0100 := by
  decide

theorem witness_ClosedGateRejectsTheExtension :
    (Instr.addB 1 3 none).extension? = some (.xtop1Math, 0x0B) ∧
      (Instr.refusedTrx 0x7F).extension? = some (.xtop1Trx, 0xFF) ∧
      ({ start with config := { start.config with allow65x02 := false } } : State).config.allow65x02 = false := by
  decide

/-- Different and equal fields are both reached. -/
theorem witness_RegisterOperationsWriteTheDestination :
    exts.wf = true ∧ (∀ p ∈ ([(0x00, 0), (0x3F, 0), (0x40, 1), (0x7F, 1), (0x80, 2), (0xBF, 2), (0xC0, 3),
      (0xFF, 3)] : List (Byte × BitVec 2)), (Window.ofList [0x23, p.1]).b0 = exts.byte .xtop3 ∧
      (Window.ofList [0x23, p.1]).b1.extractLsb' 6 2 = p.2) ∧
      start.config.allow65x02 = true ∧ (7 : RegField) ≠ 0 := by
  decide +kernel

/-- The first and the last selector without a segment. -/
theorem witness_SubBytesWithoutARegisterEffect :
    exts.wf = true ∧ (∀ p ∈ ([(0x03, 0), (0x7F, 1), (0x80, 2), (0xFF, 3)] : List (Byte × BitVec 2)),
      (Window.ofList [0x33, p.1]).b0 = exts.byte .xtop1Trx ∧
      (Window.ofList [0x33, p.1]).b1.extractLsb' 6 2 = p.2) ∧
      (0x03 : Byte).toNat % 8 = 3 ∧ (0x7F : Byte).toNat % 8 = 7 ∧
      start.config.allow65x02 = true ∧ 3 ≤ (3 : BitVec 3).toNat ∧ 3 ≤ (7 : BitVec 3).toNat := by
  decide +kernel

theorem witness_MovsMovesOneByte :
    exts.wf = true ∧ (∀ p ∈ ([(0x00, 0), (0x3A, 0), (0x40, 1), (0x7A, 1)] : List (Byte × BitVec 2)),
      (Window.ofList [0x33, p.1]).b0 = exts.byte .xtop1Trx ∧
      (Window.ofList [0x33, p.1]).b1.extractLsb' 6 2 = p.2) ∧
      (0x00 : Byte).toNat % 8 = 0 ∧ (0x09 : Byte).toNat % 8 = 1 ∧ (0x7A : Byte).toNat % 8 = 2 ∧
      start.config.allow65x02 = true ∧ SegReg.ss ≠ SegReg.ds := by
  decide +kernel

theorem witness_MathAddsAndSubtracts :
    exts.wf = true ∧ (∀ p ∈ ([(0x00, 0), (0x3F, 0), (0x40, 1), (0x7F, 1), (0x80, 2), (0xBF, 2), (0xC0, 3),
      (0xFF, 3)] : List (Byte × BitVec 2)), (Window.ofList [0x53, p.1]).b0 = exts.byte .xtop2Math ∧
      (Window.ofList [0x53, p.1]).b1.extractLsb' 6 2 = p.2) ∧
      start.config.allow65x02 = true := by
  decide +kernel

/-- The last byte of each width. -/
theorem witness_IndexedStoresWriteTheirBytes :
    exts.wf = true ∧ (∀ p ∈ ([(0x00, 0), (0x3F, 0), (0x40, 1), (0x7F, 1), (0x80, 2), (0xBF, 2), (0xC0, 3),
      (0xFF, 3)] : List (Byte × BitVec 2)), (Window.ofList [0x73, p.1]).b0 = exts.byte .xtop1Stor ∧
      (Window.ofList [0x73, p.1]).b1.extractLsb' 6 2 = p.2) ∧
      start.config.allow65x02 = true ∧ start.mem.wf = true ∧ 0 < 1 ∧ 1 < 2 ∧ 3 < 4 := by
  decide +kernel

theorem witness_ProgramWritesItsBytes :
    start.mem.wf = true ∧ 1 < [0xAA#8, 0xBB#8].length ∧ [0xAA#8, 0xBB#8].length ≤ 0 + 65536 := by
  decide

/-- From Halt: it un-halts and takes its first step. -/
theorem witness_RunToBreakRestoresThePolicy :
    (match executeUntilBreak 1 (load { start with run := .halt } [0x00]) with
      | some (.next t) => t.run == .halt
      | _ => false) = true := by
  decide

/-- The only hypothesis is that of `decodesTo`. -/
theorem witness_LoadsWriteTheirRegister : (Window.ofList [0xA9, 0x12, 0x34]).b0 = 0xA9 := by decide

theorem witness_TransfersCopyAndSetNZ : (Window.ofList [0xAA, 0x12, 0x34]).b0 = 0xAA := by decide

theorem witness_LogicWritesTheAccumulator : (Window.ofList [0x29, 0x12, 0x34]).b0 = 0x29 := by decide

theorem witness_BitTestsWithoutWriting : (Window.ofList [0x24, 0x12, 0x34]).b0 = 0x24 := by decide

theorem witness_ComparesWriteOnlyFlags : (Window.ofList [0xC9, 0x12, 0x34]).b0 = 0xC9 := by decide

theorem witness_IndexRegistersCount : (Window.ofList [0xE8, 0x12, 0x34]).b0 = 0xE8 := by decide

theorem witness_BranchesFollowTheirFlag : (Window.ofList [0x10, 0x12, 0x34]).b0 = 0x10 := by decide

theorem witness_JumpAbsoluteAndNop : (Window.ofList [0x4C, 0x12, 0x34]).b0 = 0x4C := by decide

theorem witness_JumpIndirectReadsItsPointer : (Window.ofList [0x6C, 0x12, 0x34]).b0 = 0x6C := by decide

theorem witness_RtsPopsItsReturnAddress : (Window.ofList [0x60, 0x12, 0x34]).b0 = 0x60 := by decide

theorem witness_RtiPopsFlagsAndPc : (Window.ofList [0x40, 0x12, 0x34]).b0 = 0x40 := by decide

theorem witness_FlagInstructionsWriteOneFlag : (Window.ofList [0x18, 0x12, 0x34]).b0 = 0x18 := by decide

end Sys2Proof.Tests
end

section
/-! PROOF. The invariant of the machine (R6, R46, R80, R81, R145, R455): each effect a step can have keeps it and
writes neither the configuration nor a parameter. -/

namespace Sys2Proof.Machine

/-- Going from s to t keeps the invariant, the configuration and the parameters. -/
def KeepsInv (s t : State) : Prop := (s.Inv → t.Inv) ∧ t.config = s.config ∧ t.params = s.params

/-- The parts of the invariant one by one: memory keeps its canonical form, the record its shape, and EXT_OPCODE is a
parameter. -/
theorem KeepsInv.of_parts {s t : State} (hmem : s.mem.wf = true → t.mem.wf = true)
    (hrec : recordOk s.lastIllegal = true → recordOk t.lastIllegal = true)
    (hconfig : t.config = s.config) (hparams : t.params = s.params) : KeepsInv s t := by
  refine ⟨?_, hconfig, hparams⟩
  rintro ⟨hm, hext, hr⟩
  exact ⟨hmem hm, hparams ▸ hext, hrec hr⟩

theorem KeepsInv.refl (s : State) : KeepsInv s s := ⟨id, rfl, rfl⟩

/-- Adding a cost touches no part of the invariant (R45). -/
theorem KeepsInv.charge {s t : State} (h : KeepsInv s t) (k : Nat) : KeepsInv s (t.charge k) := h

/-- ILLEGAL_OPCODE makes a record of one byte (R451, R455). -/
theorem keepsInv_illegalOpcode (s : State) (op : Byte) : KeepsInv s (s.illegalOpcode op) :=
  .of_parts id (fun _ => rfl) rfl rfl

/-- ILLEGAL_SUBOP makes a record of two bytes (R452, R455). -/
theorem keepsInv_illegalSubop (s : State) (f : Family) (sub : Byte) : KeepsInv s (s.illegalSubop f sub) :=
  .of_parts id (fun _ => rfl) rfl rfl

theorem keepsInv_enterBreak (s : State) : KeepsInv s s.enterBreak :=
  .of_parts State.enterBreak_wf id rfl rfl

theorem keepsInv_setSeg (s : State) (n : Nat) (g : SegReg) (v : Byte) : KeepsInv s ((s.advance n).setSeg g v) :=
  .of_parts (by simp) (by simp) (by simp) (by simp)

/-- An ordinary effect writes neither the record nor the machine around the program. -/
theorem keepsInv_of_ordinary {i : Instr} {s t : State} (h : ordinary i s t) : KeepsInv s t := by
  obtain ⟨hframe, hmem, -⟩ := h
  rw [hframe]
  exact .of_parts hmem id rfl rfl

/-- A reset leaves memory, the record, the configuration and the parameters alone (R455, R501). -/
theorem keepsInv_performReset (s : State) : KeepsInv s s.performReset :=
  .of_parts id id rfl rfl

theorem exec_keepsInv {i : Instr} {s t : State} (h : exec i s = .next t) : KeepsInv s t := by
  rcases exec_cases h with ⟨op, rfl⟩ | ⟨f, sub, rfl⟩ | ⟨-, rfl⟩ | ⟨g, r, -, rfl⟩ | hord
  · exact keepsInv_illegalOpcode s op
  · exact keepsInv_illegalSubop s f sub
  · exact keepsInv_enterBreak s
  · exact keepsInv_setSeg s 2 g _
  · exact keepsInv_of_ordinary hord

theorem step_keepsInv {s t : State} (h : step s = .next t) : KeepsInv s t := by
  rcases step_cases h with ⟨-, rfl⟩ | ⟨-, rfl⟩ | ⟨-, i, u, -, hexec, rfl⟩ | ⟨-, op, -, rfl⟩
  · exact keepsInv_performReset s
  · exact .refl t
  · exact (exec_keepsInv hexec).charge _
  · exact (keepsInv_illegalOpcode s op).charge _

/-- Settles O9, by the inversion of a step into its possible effects, each of which keeps the invariant. -/
theorem stepKeepsInvariant : Obligations.StepKeepsInvariant := by
  intro s t hinv hstep
  obtain ⟨hkeep, hconfig, hparams⟩ := step_keepsInv hstep
  exact ⟨hkeep hinv, hconfig, hparams⟩

end Sys2Proof.Machine
end

section
/-! PROOF. The flags (R40 to R43): the layout of the flag byte, and what an instruction can make of the flags, said
once, with R43's rows derived from it. -/

namespace Sys2Proof.Machine

open Sys2Proof.Claims

/-! ## The flag byte (R41, R42) -/

theorem Flags.pack_toNat (f : Flags) :
    f.pack.toNat = 128 * f.n.toNat + 64 * f.v.toNat + 32 + 16 * f.b.toNat + 8 * f.d.toNat + 4 * f.i.toNat +
      2 * f.z.toNat + f.c.toNat := by
  obtain ⟨n, v, b, d, i, z, c⟩ := f
  revert n v b d i z c
  decide

theorem Flags.unpack_pack (f : Flags) : Flags.unpack f.pack = f := by
  obtain ⟨n, v, b, d, i, z, c⟩ := f
  revert n v b d i z c
  decide

theorem Flags.pack_unpack (b : Byte) : (Flags.unpack b).pack = b ||| 0x20 := by
  revert b
  decide

/-- Settles O24, by the 128 flag records and the 256 bytes. -/
theorem flagByteLayout : Obligations.FlagByteLayout :=
  ⟨fun f => ⟨f.pack_toNat, f.unpack_pack⟩, fun b => ⟨Flags.pack_unpack b, rfl⟩⟩

/-! ## What an instruction can make of the flags (R43) -/

/-- The flags instruction i can leave when it finds f, a constructor for each set of flags that is written together. -/
inductive FlagEffect (i : Instr) (f : Flags) : Flags → Prop
  /-- no flag -/
  | kept : FlagEffect i f f
  /-- N and Z of a result (R195) -/
  | result (n z : Bool) (hnz : writesNZ i = true) : FlagEffect i f { f with n := n, z := z }
  /-- a compare, a shift or a rotate: C as well -/
  | carried (n z c : Bool) (hnz : writesNZ i = true) (hc : writesC i = true) :
      FlagEffect i f { f with n := n, z := z, c := c }
  /-- ADC, SBC or MATH: C as well, and V becomes 0 (R236) -/
  | summed (n z c : Bool) (hnz : writesNZ i = true) (hv : writesV i = true) (hc : writesC i = true) :
      FlagEffect i f { f with n := n, z := z, c := c, v := false }
  /-- BIT (R246, D21) -/
  | tested (m : MemMode) (n z v : Bool) (hi : i = .bit m) : FlagEffect i f { f with n := n, z := z, v := v }
  /-- PLP or RTI: all seven flags (R304, R333) -/
  | popped (g : Flags) (hi : i = .plp ∨ i = .rti) : FlagEffect i f g
  /-- CLC or SEC -/
  | carry (c : Bool) (hi : i = .clc ∨ i = .sec) : FlagEffect i f { f with c := c }
  /-- CLV -/
  | overflow (hi : i = .clv) : FlagEffect i f { f with v := false }
  /-- CLD or SED -/
  | decimal (d : Bool) (hi : i = .cld ∨ i = .sed) : FlagEffect i f { f with d := d }
  /-- CLI, SEI or BRK (D24) -/
  | interrupt (v : Bool) (hi : i = .cli ∨ i = .sei ∨ i = .brk) : FlagEffect i f { f with i := v }

/-- The flags an instruction answers are one of the effects of `FlagEffect`. -/
theorem exec_flagEffect {i : Instr} {s t : State} (h : exec i s = .next t) : FlagEffect i s.flags t.flags := by
  cases i
  case stz | bra =>
    rcases gate65c02_next h with ⟨-, h⟩ | ⟨-, rfl⟩
    · injection h with h
      subst h
      exact .kept
    · exact .kept
  case addB | subB | addW | subW | addL | subL =>
    rcases gate65x02_next h with ⟨-, h⟩ | ⟨-, rfl⟩
    · injection h with h
      subst h
      exact .summed _ _ _ rfl rfl rfl
    · exact .kept
  case stB | stW | stL =>
    rcases gate65x02_next h with ⟨-, h⟩ | ⟨-, rfl⟩
    · injection h with h
      subst h
      rw [State.stor_eq]
      exact .kept
    · exact .kept
  case movsToSeg =>
    rcases gate65x02_next h with ⟨-, h⟩ | ⟨-, rfl⟩
    · injection h with h
      subst h
      rw [State.setSeg_flags]
      exact .kept
    · exact .kept
  case movNotB | segxB | movNotW | andW | xorW | orW | movNotL | andL | xorL | orL | movsFromSeg
      | illegalXtop1 | illegalTrx =>
    rcases gate65x02_next h with ⟨-, h⟩ | ⟨-, rfl⟩
    · injection h with h
      subst h
      exact .kept
    · exact .kept
  case refusedTrx =>
    rcases gate65x02_next h with ⟨-, h⟩ | ⟨-, rfl⟩
    · cases h
    · exact .kept
  all_goals
    injection h with h
    subst h
  case lda | ldx | ldy | tax | tay | txa | tya | tsx | pla | and | eor | ora | inc | dec | inx | iny | dex | dey =>
    exact .result _ _ rfl
  case adc | sbc => exact .summed _ _ _ rfl rfl rfl
  case cmp | cpx | cpy => exact .carried _ _ _ rfl rfl
  case asl t | lsr t | rol t | ror t => cases t <;> exact .carried _ _ _ rfl rfl
  case bit m => exact .tested m _ _ _ rfl
  case plp => exact .popped _ (.inl rfl)
  case rti => exact .popped _ (.inr rfl)
  case clc => exact .carry _ (.inl rfl)
  case sec => exact .carry _ (.inr rfl)
  case clv => exact .overflow rfl
  case cld => exact .decimal _ (.inl rfl)
  case sed => exact .decimal _ (.inr rfl)
  case cli => exact .interrupt _ (.inl rfl)
  case sei => exact .interrupt _ (.inr (.inl rfl))
  case brk => exact .interrupt _ (.inr (.inr rfl))
  all_goals exact .kept

/-- In state Normal a step leaves the flags as the decoded instruction does: the cost it adds is no flag. -/
theorem step_flagEffect {s t : State} {i : Instr} (hrun : s.run = .normal) (hstep : step s = .next t)
    (hi : decode s.params.ext s.fetchWindow = .instr i) : FlagEffect i s.flags t.flags := by
  rcases step_cases hstep with ⟨hr, -⟩ | ⟨hr, -⟩ | ⟨-, j, u, hj, hexec, rfl⟩ | ⟨-, op, hop, -⟩
  · cases hrun.symm.trans hr
  · cases hrun.symm.trans hr
  · cases hi.symm.trans hj
    rw [State.charge_flags]
    exact exec_flagEffect hexec
  · cases hi.symm.trans hop

/-! ## R43's rows -/

section

variable {i : Instr} {f g : Flags}

theorem FlagEffect.writers_nz (h : FlagEffect i f g) (hne : g.n ≠ f.n ∨ g.z ≠ f.z) : writesNZ i = true := by
  cases h with
  | result _ _ hnz | carried _ _ _ hnz _ | summed _ _ _ hnz _ _ => exact hnz
  | tested m _ _ _ hi => rw [hi]; rfl
  | popped _ hi => rcases hi with rfl | rfl <;> rfl
  | kept | carry | overflow | decimal | interrupt => simp at hne

theorem FlagEffect.writers_v (h : FlagEffect i f g) (hne : g.v ≠ f.v) : writesV i = true := by
  cases h with
  | summed _ _ _ _ hv _ => exact hv
  | tested m _ _ _ hi => rw [hi]; rfl
  | popped _ hi => rcases hi with rfl | rfl <;> rfl
  | overflow hi => rw [hi]; rfl
  | kept | result | carried | carry | decimal | interrupt => exact absurd rfl hne

theorem FlagEffect.writers_c (h : FlagEffect i f g) (hne : g.c ≠ f.c) : writesC i = true := by
  cases h with
  | carried _ _ _ _ hc | summed _ _ _ _ _ hc => exact hc
  | popped _ hi | carry _ hi => rcases hi with rfl | rfl <;> rfl
  | kept | result | tested | overflow | decimal | interrupt => exact absurd rfl hne

theorem FlagEffect.setters_v (h : FlagEffect i f g) (hf : f.v = false) (hg : g.v = true) :
    (∃ m, i = .bit m) ∨ i = .plp ∨ i = .rti := by
  cases h with
  | tested m _ _ _ hi => exact .inl ⟨m, hi⟩
  | popped _ hi => exact .inr hi
  | summed | overflow => cases hg
  | kept | result | carried | carry | decimal | interrupt => cases hf.symm.trans hg

theorem FlagEffect.writers_b (h : FlagEffect i f g) (hne : g.b ≠ f.b) : i = .plp ∨ i = .rti := by
  cases h with
  | popped _ hi => exact hi
  | _ => exact absurd rfl hne

theorem FlagEffect.writers_d (h : FlagEffect i f g) (hne : g.d ≠ f.d) :
    i = .plp ∨ i = .rti ∨ i = .cld ∨ i = .sed := by
  cases h with
  | popped _ hi => exact hi.imp id .inl
  | decimal _ hi => exact .inr (.inr hi)
  | _ => exact absurd rfl hne

theorem FlagEffect.writers_i (h : FlagEffect i f g) (hne : g.i ≠ f.i) :
    i = .plp ∨ i = .rti ∨ i = .cli ∨ i = .sei ∨ i = .brk := by
  cases h with
  | popped _ hi => exact hi.imp id .inl
  | interrupt _ hi => exact .inr (.inr hi)
  | _ => exact absurd rfl hne

/-- Of the extension only MATH stands in R43's row for N and Z (D6, D10). -/
theorem isMath_of_writesNZ (hext : i.extension?.isSome = true) (hnz : writesNZ i = true) : isMath i = true := by
  cases i
  case addB | subB | addW | subW | addL | subL => rfl
  case movNotB | segxB | illegalXtop1 | movNotW | andW | xorW | orW | movNotL | andL | xorL | orL | movsToSeg
      | movsFromSeg | illegalTrx | refusedTrx | stB | stW | stL =>
    cases hnz
  all_goals cases hext

theorem FlagEffect.extension_kept (h : FlagEffect i f g) (hext : i.extension?.isSome = true)
    (hmath : isMath i = false) : g = f := by
  cases h with
  | kept => rfl
  | result _ _ hnz | carried _ _ _ hnz _ | summed _ _ _ hnz _ _ =>
    cases hmath.symm.trans (isMath_of_writesNZ hext hnz)
  | tested _ _ _ _ hi | overflow hi => cases hi; cases hext
  | popped _ hi | carry _ hi | decimal _ hi => rcases hi with rfl | rfl <;> cases hext
  | interrupt _ hi => rcases hi with rfl | rfl | rfl <;> cases hext

end

/-- Settles O13: every clause is a fact about the one effect the instruction has on the flags. -/
theorem writersOfTheFlags : Obligations.WritersOfTheFlags := by
  intro s t i hrun hstep hi
  have effect := step_flagEffect hrun hstep hi
  exact ⟨fun h => effect.writers_nz (.inl h), fun h => effect.writers_nz (.inr h), effect.writers_v,
    effect.writers_c, effect.setters_v, effect.writers_b, effect.writers_d, effect.writers_i,
    effect.extension_kept⟩

end Sys2Proof.Machine
end

section
/-! PROOF. What a step in state Normal runs (R121, R503), and what it does to the segments, the stack page and the
cycle counter (R38, R39, R45, R89, R226), each from the inversion of an instruction into its possible effects. -/

namespace Sys2Proof.Machine

/-- Settles O8. The state after reset has an empty memory, a drawn EXT_OPCODE and no record. -/
theorem invariantHoldsAtReset : Obligations.InvariantHoldsAtReset := ⟨rfl, ExtOpcodes.ofCodes_wf _, rfl⟩

/-! ## The fetched bytes (R37, R121) -/

theorem offset_add (o : Half) (k : Nat) : o + BitVec.ofNat 16 k = BitVec.ofNat 16 (o.toNat + k) := by
  rw [BitVec.ofNat_add, BitVec.ofNat_toNat, BitVec.setWidth_eq]

theorem State.fetchWindow_bytes (s : State) {k : Nat} (hk : k < 6) :
    s.fetchWindow.bytes[k]? = some (s.readByte s.ps (BitVec.ofNat 16 (s.pc.toNat + k))) := by
  rw [← offset_add]
  match k with
  | 0 => rw [BitVec.add_zero]; rfl
  | 1 | 2 | 3 | 4 | 5 => rfl

/-- A byte written where the fetch looks is the byte fetched, and no other write is seen (R92). -/
theorem State.fetchWindow_writeByte {s : State} (hmem : s.mem.wf = true) (g : Byte) (o : Half) (v : Byte) {k : Nat}
    (hk : k < 6) :
    (s.writeByte g o v).fetchWindow.bytes[k]? =
      if g = s.ps ∧ o = BitVec.ofNat 16 (s.pc.toNat + k) then some v else s.fetchWindow.bytes[k]? := by
  rw [State.fetchWindow_bytes _ hk, State.fetchWindow_bytes _ hk, State.writeByte_ps, State.writeByte_pc]
  split
  · rename_i h
    obtain ⟨rfl, rfl⟩ := h
    rw [State.readByte_writeByte_same hmem]
  · rename_i h
    rw [State.readByte_writeByte_other s v fun e => h ⟨e.1.symm, e.2.symm⟩]

theorem step_of_instr {s : State} {i : Instr} (hrun : s.run = .normal)
    (hi : decode s.params.ext s.fetchWindow = .instr i) : step s = chargeOutcome (s.cycleCost i) (exec i s) := by
  simp only [step, hrun, State.stepNormal, hi, State.retire]

theorem step_of_illegalOpcode {s : State} {op : Byte} (hrun : s.run = .normal)
    (hop : decode s.params.ext s.fetchWindow = .illegalOpcode op) : step s = .next ((s.illegalOpcode op).charge 1) := by
  simp only [step, hrun, State.stepNormal, hop, State.rejectOpcode, illegalOpcodeCost]

/-- Settles O5, by the fetch of each byte and the two outcomes of the decoder. -/
theorem stepRunsTheDecodedInstruction : Obligations.StepRunsTheDecodedInstruction :=
  ⟨fun s _ hk => s.fetchWindow_bytes hk,
    fun _ g o v hmem _ hk => State.fetchWindow_writeByte hmem g o v hk,
    fun s hrun => ⟨fun _ hi => step_of_instr hrun hi,
      fun op hop => ⟨_, step_of_illegalOpcode hrun hop, s.raiseIllegal_takes .opcode [op]⟩⟩⟩

/-! ## The segments and the stack page (R38, R39, R89, R226) -/

theorem exec_segs_writers {i : Instr} {s t : State} (h : exec i s = .next t) (hne : ¬ sameSegs s t) :
    i = .brk ∨ ∃ g r, i = .movsToSeg g r := by
  rcases exec_cases h with ⟨op, rfl⟩ | ⟨f, sub, rfl⟩ | ⟨hi, -⟩ | ⟨g, r, hi, -⟩ | ⟨hframe, -, -⟩
  · exact absurd ⟨rfl, rfl, rfl⟩ hne
  · exact absurd ⟨rfl, rfl, rfl⟩ hne
  · exact .inl hi
  · exact .inr ⟨g, r, hi⟩
  · rw [hframe] at hne
    exact absurd ⟨rfl, rfl, rfl⟩ hne

/-- The three pushes of the trap entry stay in their page (R84, R305). -/
theorem State.hi8_enterBreak_sp (s : State) : hi8 s.enterBreak.sp = hi8 s.sp := by
  rw [State.enterBreak_eq, hi8_spPushed, hi8_spPushed, hi8_spPushed]

theorem exec_stackPage_writer {i : Instr} {s t : State} (h : exec i s = .next t) (hne : hi8 t.sp ≠ hi8 s.sp) :
    i = .txs := by
  rcases exec_cases h with ⟨op, rfl⟩ | ⟨f, sub, rfl⟩ | ⟨-, rfl⟩ | ⟨g, r, -, rfl⟩ | ⟨-, -, hpage⟩
  · exact absurd rfl hne
  · exact absurd rfl hne
  · exact absurd s.hi8_enterBreak_sp hne
  · rw [State.setSeg_sp] at hne
    exact absurd rfl hne
  · exact Classical.byContradiction fun hi => hne (hpage hi)

/-- Settles O12: an instruction writes them only as said, and an unknown byte leaves them. -/
theorem writersOfSegmentsAndStackPage : Obligations.WritersOfSegmentsAndStackPage := by
  intro s t hrun hstep
  rcases step_cases hstep with ⟨hr, -⟩ | ⟨hr, -⟩ | ⟨-, i, u, hi, hexec, rfl⟩ | ⟨-, op, -, rfl⟩
  · cases hrun.symm.trans hr
  · cases hrun.symm.trans hr
  · rw [hi]
    refine ⟨fun hne => ?_, fun hne => ?_⟩
    · rcases exec_segs_writers hexec hne with rfl | ⟨g, r, rfl⟩
      · exact .inl rfl
      · exact .inr ⟨g, r, rfl⟩
    · rw [exec_stackPage_writer hexec hne]
  · exact ⟨fun hne => absurd ⟨rfl, rfl, rfl⟩ hne, fun hne => absurd rfl hne⟩

/-! ## The cycle counter (R45, R520) -/

section

variable (free : CycleKey → Bool → Bool → Nat) (i : Instr) (x : CycleContext)

theorem one_le_costFree : 1 ≤ costFree free i x := Nat.le_add_right 1 _

theorem one_le_costRead : 1 ≤ costRead free i x := by
  rw [costRead]
  omega

theorem one_le_costBranch : 1 ≤ costBranch free i x := by
  rw [costBranch]
  omega

theorem one_le_costStore (f : Family) (src j : RegField) (m : StoreMode) : 1 ≤ costStore free f src j m := by
  rw [costStore]
  omega

/-- Every cost counts the opcode fetch (constraint 1 of R520), whatever the free part is. -/
theorem one_le_cycleCostWith : 1 ≤ cycleCostWith free i x := by
  cases i
  case adc o =>
    cases o with
    | imm v => exact Nat.le_succ 1
    | mem m => exact one_le_costRead free _ x
  case lda | ldx | ldy | sbc | and | eor | ora | cmp => exact one_le_costRead free _ x
  case bpl | bmi | bvc | bvs | bcc | bcs | bne | beq | bra => exact one_le_costBranch free _ x
  case stB | stW | stL => exact one_le_costStore free _ _ _ _
  case illegalXtop1 | illegalTrx => exact Nat.le_succ 1
  all_goals exact one_le_costFree free _ x

end

theorem State.one_le_cycleCost (s : State) (i : Instr) : 1 ≤ s.cycleCost i := by
  rw [State.cycleCost]
  split
  · exact one_le_cycleCostWith _ _ _
  · exact Nat.le_refl 1

/-- No instruction writes the cycle counter: its cost is added after it (R503). -/
theorem exec_cycles {i : Instr} {s t : State} (h : exec i s = .next t) : t.cycles = s.cycles := by
  rcases exec_cases h with ⟨op, rfl⟩ | ⟨f, sub, rfl⟩ | ⟨-, rfl⟩ | ⟨g, r, -, rfl⟩ | ⟨hframe, -, -⟩
  · rfl
  · rfl
  · rfl
  · rw [State.setSeg_cycles, State.advance_cycles]
  · rw [hframe]

/-- Settles O15, by the cost each step adds to a counter its instruction left alone. -/
theorem cycleCounterAdvances : Obligations.CycleCounterAdvances := by
  intro s t hrun hstep
  rcases step_cases hstep with ⟨hr, -⟩ | ⟨hr, -⟩ | ⟨-, i, u, -, hexec, rfl⟩ | ⟨-, op, -, rfl⟩
  · cases hrun.symm.trans hr
  · cases hrun.symm.trans hr
  · rw [State.charge_cycles, exec_cycles hexec]
    exact Nat.add_le_add_left (s.one_le_cycleCost i) s.cycles
  · exact Nat.le_refl _

end Sys2Proof.Machine
end

section
/-! PROOF. The register views (R31 to R34): where a selector's view lies in the file, what a write leaves, and the
lanes that are A, X and Y. -/

namespace Sys2Proof.Machine

open Sys2Proof.Claims

/-- Outside the lane the selector names, a write of a view keeps every bit of the file (R31, R32, R33). -/
theorem State.setView_getLsbD_other {w : Nat} (s : State) (n : Nat) (v : BitVec w) {l : Fin 8} {b : Nat}
    (h : ¬(l = slotOf w n ∧ w * laneOf w n ≤ b ∧ b < w * laneOf w n + w)) :
    ((s.setView n v).gpr.get l).getLsbD b = (s.gpr.get l).getLsbD b := by
  by_cases hl : slotOf w n = l
  · subst hl
    rw [State.setView, get_set_slot _ rfl]
    refine setLane_getLsbD_other _ _ v ?_
    by_contra hout
    exact h ⟨rfl, by omega, by omega⟩
  · rw [State.setView, get_set_other _ hl]

theorem slotOf_eq {w n : Nat} {j : Fin 8} (hj : (j : Nat) = n / (32 / w)) : slotOf w n = j := by
  apply Fin.ext
  rw [slotOf, Fin.val_ofNat, ← hj]
  exact Nat.mod_eq_of_lt j.isLt

theorem viewRule_of_width {w : Nat} (hw : w = 8 ∨ w = 16 ∨ w = 32) : viewRule w := by
  intro s n _ v j hj
  obtain rfl := slotOf_eq hj
  exact ⟨rfl, s.view_setView_same n v hw, fun _ _ h => s.setView_getLsbD_other n v h, s.setView_eq n v⟩

/-- Settles O19, by one proof for the three widths. -/
theorem registerViewsFollowTheFile : Obligations.RegisterViewsFollowTheFile :=
  ⟨viewRule_of_width (.inl rfl), viewRule_of_width (.inr (.inl rfl)), viewRule_of_width (.inr (.inr rfl))⟩

/-! ## A, X and Y (R34) -/

/-- The high byte of a 16-bit lane is the odd one of its two 8-bit lanes (R31, R32). -/
theorem hi8_getLane (x : Slot) (lane : Nat) : hi8 (getLane 16 x lane) = getLane 8 x (2 * lane + 1) := by
  ext i hi
  simp only [hi8, getLane, BitVec.getElem_extractLsb', BitVec.getLsbD_extractLsb']
  rw [decide_eq_true (show 8 + i < 16 by omega), Bool.true_and]
  congr 1
  omega

/-- The 32-bit view is the whole slot (R33). -/
theorem getLane_slot (x : Slot) : getLane 32 x 0 = x := BitVec.extractLsb'_eq_self

theorem State.hi8_view16 (s : State) (n : Nat) : hi8 (s.view 16 n) = s.view 8 (2 * n + 1) := by
  have hslot : n / 2 = (2 * n + 1) / 4 := by omega
  have hlane : 2 * (n % 2) + 1 = (2 * n + 1) % 4 := by omega
  simp only [State.view, slotOf, laneOf, hi8_getLane, Nat.reduceDiv, hslot, hlane]

/-- Settles O20: each wider view over a byte shows it. -/
theorem legacyRegistersAreLanes : Obligations.LegacyRegistersAreLanes := by
  intro s
  refine ⟨rfl, rfl, rfl, s.hi8_view16 0, s.hi8_view16 1, s.hi8_view16 2, ?_, ?_, ?_⟩
  · exact congrArg (BitVec.extractLsb' 8 8) (getLane_slot (s.gpr.get 0))
  · exact congrArg (BitVec.extractLsb' 24 8) (getLane_slot (s.gpr.get 0))
  · exact congrArg (BitVec.extractLsb' 8 8) (getLane_slot (s.gpr.get 1))

end Sys2Proof.Machine
end

section
/-! PROOF. Memory (R80 to R94): the byte and multi-byte accesses, the stack's page, the operand addresses, the host's
`program`, and which instructions write memory at all. -/

namespace Sys2Proof.Machine

open Sys2Proof.Claims

/-! ## Counting a byte up and down -/

theorem byte_succ_toNat (b : Byte) : (b + 1).toNat = (b.toNat + 1) % 256 := BitVec.toNat_add b 1

theorem byte_pred_toNat (b : Byte) : (b - 1).toNat = (b.toNat + 255) % 256 := BitVec.toNat_sub' b 1

/-! ## Byte and multi-byte accesses (R82, R83) -/

theorem sameMemBut_writeByte (s : State) (g : Byte) (o : Half) (v : Byte) :
    sameMemBut g o 1 s (s.writeByte g o v) := by
  intro h p ne
  have ne0 := ne 0 Nat.one_pos
  rw [BitVec.add_zero] at ne0
  exact State.readByte_writeByte_other s v ne0

/-- Settles O21, by the laws of a read after a write. -/
theorem memWriteChangesOneByte : Obligations.MemWriteChangesOneByte :=
  fun s g o v => ⟨fun hmem => State.readByte_writeByte_same hmem g o v, sameMemBut_writeByte s g o v,
    s.writeByte_eq g o v⟩

/-- A number is read back whole when each of the n bytes from (g, o) on is its byte at that place (R83). -/
theorem State.readLE_of_bytes {w : Nat} (s : State) (g : Byte) (o : Half) (n : Nat) (v : BitVec w)
    (hbytes : ∀ k < n, s.readByte g (o + BitVec.ofNat 16 k) = (v >>> (8 * k)).setWidth 8) :
    s.readLE g o n = v.toNat % 2 ^ (8 * n) := by
  induction n generalizing o v with
  | zero => rw [State.readLE, Nat.mul_zero, Nat.pow_zero, Nat.mod_one]
  | succ n ih =>
    have hfirst : s.readByte g o = v.setWidth 8 := by simpa using hbytes 0 n.succ_pos
    have hrest : s.readLE g (o + 1) n = (v >>> 8).toNat % 2 ^ (8 * n) := by
      refine ih (o + 1) (v >>> 8) fun k hk => ?_
      have hbyte := hbytes (k + 1) (Nat.succ_lt_succ hk)
      rw [BitVec.ofNat_add, BitVec.add_comm (BitVec.ofNat 16 k), ← BitVec.add_assoc, Nat.mul_succ, Nat.add_comm,
        BitVec.shiftRight_add] at hbyte
      exact hbyte
    calc s.readLE g o (n + 1)
      _ = v.toNat % 2 ^ 8 + 256 * (v.toNat / 2 ^ 8 % 2 ^ (8 * n)) := by
        rw [State.readLE, hfirst, hrest, BitVec.toNat_setWidth, BitVec.toNat_ushiftRight, Nat.shiftRight_eq_div_pow]
      _ = v.toNat % 2 ^ (8 * (n + 1)) := by
        rw [Nat.mul_succ, Nat.add_comm (8 * n), Nat.pow_add, Nat.mod_mul]

theorem State.readLE_writeLE {w : Nat} {s : State} (hmem : s.mem.wf = true) (g : Byte) (o : Half) {n : Nat}
    (hn : n ≤ 65536) (v : BitVec w) : (s.writeLE g o n v).readLE g o n = v.toNat % 2 ^ (8 * n) :=
  State.readLE_of_bytes _ g o n v fun _ hk => State.readByte_writeLE_same hmem g o hn v hk

theorem sameMemBut_writeLE {w : Nat} (s : State) (g : Byte) (o : Half) (n : Nat) (v : BitVec w) :
    sameMemBut g o n s (s.writeLE g o n v) :=
  fun _ _ ne => State.readByte_writeLE_other s n v ne

/-- Settles O22, for every number of bytes that fits in a segment. -/
theorem multiByteAccessWrapsInSegment : Obligations.MultiByteAccessWrapsInSegment := by
  intro s g o v n hmem hsize
  have hn : n ≤ 65536 := by omega
  refine ⟨State.readLE_writeLE hmem g o hn v, fun k hk => ?_, sameMemBut_writeLE s g o n v⟩
  rw [← offset_add, State.readByte_writeLE_same hmem g o hn v hk, BitVec.setWidth_ushiftRight_eq_extractLsb]

/-! ## The host's `program` (R94) -/

theorem sameMemBut_writeBytes (s : State) (g : Byte) (o : Half) (bs : List Byte) :
    sameMemBut g o bs.length s (s.writeBytes g o bs) :=
  fun _ _ ne => State.readByte_writeBytes_other s bs ne

/-- Settles O59, by the laws of the write of a list of bytes. -/
theorem programWritesItsBytes : Obligations.ProgramWritesItsBytes := by
  intro s g o bs
  refine ⟨offset_add o bs.length, fun hmem k hk hlast => ?_, sameMemBut_writeBytes s g o bs, s.writeBytes_eq g o bs⟩
  rw [← offset_add]
  exact State.readByte_writeBytes_same hmem g o bs hk hlast

/-! ## The stack's page (R38, R84) -/

theorem spPushed_toNat (sp : Half) : (spPushed sp).toNat = sp.toNat / 256 * 256 + (sp.toNat + 255) % 256 := by
  rw [spPushed, half_toNat, hi8_toNat, byte_pred_toNat, lo8_toNat]
  omega

theorem spPopped_toNat (sp : Half) : (spPopped sp).toNat = sp.toNat / 256 * 256 + (sp.toNat + 1) % 256 := by
  rw [spPopped, half_toNat, hi8_toNat, byte_succ_toNat, lo8_toNat]
  omega

/-- Settles O23: SP moves inside its page, and the two moves undo each other (D13). -/
theorem pushAndPopStayInThePage : Obligations.PushAndPopStayInThePage :=
  fun s v hmem => ⟨State.readByte_push8_same hmem v, spPushed_toNat s.sp, spPopped_toNat s.sp, rfl,
    State.top_push8 hmem v, spPopped_spPushed s.sp⟩

/-! ## The operand addresses (R124 to R129) -/

/-- An offset in page 0 (D17). -/
theorem pageZeroOffset {z : Byte} {p : Nat} (hz : z.toNat = p % 256) :
    z.setWidth 16 = BitVec.ofNat 16 (p % 256) := by
  rw [← hz, BitVec.ofNat_toNat]

/-- The pointer whose low byte is at p mod 256 in page 0 of DS, and whose high byte is after it, wrapping there
(R128, R129, D17). -/
theorem State.zeroPagePointer_toNat_wrapped (s : State) {z : Byte} {p : Nat} (hz : z.toNat = p % 256) :
    (s.zeroPagePointer z).toNat = (s.readByte s.ds (BitVec.ofNat 16 (p % 256))).toNat +
      256 * (s.readByte s.ds (BitVec.ofNat 16 ((p + 1) % 256))).toNat := by
  have hnext : (z + 1).toNat = (p + 1) % 256 := by
    rw [byte_succ_toNat, hz, Nat.mod_add_mod]
  rw [State.zeroPagePointer_toNat, pageZeroOffset hz, pageZeroOffset hnext]

/-- A page-0 mode adds its index mod 256 (R125, D17). -/
theorem zeroPageIndexed_toNat (z i : Byte) : ((z + i).setWidth 16).toNat = (z.toNat + i.toNat) % 256 := by
  rw [BitVec.toNat_setWidth_of_le (by omega), BitVec.toNat_add]

/-- A 16-bit mode adds its index mod 65536 (R127, R129, D17). -/
theorem indexed_toNat (a : Half) (i : Byte) : (a + i.setWidth 16).toNat = (a.toNat + i.toNat) % 65536 := by
  rw [BitVec.toNat_add, BitVec.toNat_setWidth_of_le (by omega)]

theorem pageCross_indexed (a : Half) (i : Byte) :
    pageCross a (a + i.setWidth 16) = decide (a.toNat / 256 ≠ (a.toNat + i.toNat) % 65536 / 256) := by
  rw [pageCross_toNat, indexed_toNat]

/-- Settles O26, mode by mode from the index arithmetic of page 0, of 16 bits and of the pointers. -/
theorem effectiveAddressesFollowTheModes : Obligations.EffectiveAddressesFollowTheModes := by
  intro s z a ptr
  have hindx : (s.zeroPagePointer (z + s.x)).toNat = ptr (z.toNat + s.x.toNat) :=
    s.zeroPagePointer_toNat_wrapped (BitVec.toNat_add z s.x)
  have hindy : (s.zeroPagePointer z).toNat = ptr z.toNat :=
    s.zeroPagePointer_toNat_wrapped (Nat.mod_eq_of_lt z.isLt).symm
  have hzp : (s.ea (.zp z)).toNat = z.toNat := BitVec.toNat_setWidth_of_le (by omega)
  have hindyEa : (s.ea (.indy z)).toNat = (ptr z.toNat + s.y.toNat) % 65536 := hindy ▸ indexed_toNat _ s.y
  have hindyCross : s.eaCross (.indy z) =
      decide (ptr z.toNat / 256 ≠ (ptr z.toNat + s.y.toNat) % 65536 / 256) := hindy ▸ pageCross_indexed _ s.y
  exact ⟨hzp, zeroPageIndexed_toNat z s.x, zeroPageIndexed_toNat z s.y, rfl, indexed_toNat a s.x,
    indexed_toNat a s.y, hindx, hindyEa, pageCross_indexed a s.x, pageCross_indexed a s.y, hindyCross,
    rfl, rfl, rfl, rfl, rfl, rfl, fun _ => ⟨rfl, rfl⟩⟩

/-! ## The writers of memory (R84, R86) -/

/-- An instruction that is no writer of memory leaves it as it is, behind a closed gate too. -/
theorem exec_mem_kept {i : Instr} {s t : State} (h : exec i s = .next t) (hw : writesMemory i = false) :
    t.mem = s.mem := by
  cases i
  case sta | stx | sty | stz | inc | dec | jsr | brk | pha | php | stB | stW | stL => cases hw
  case asl d | lsr d | rol d | ror d =>
    cases d with
    | acc =>
      injection h with h
      subst h
      rfl
    | mem m => cases hw
  case bra =>
    rcases gate65c02_next h with ⟨-, h⟩ | ⟨-, rfl⟩
    · injection h with h
      subst h
      rfl
    · rfl
  case refusedTrx =>
    rcases gate65x02_next h with ⟨-, h⟩ | ⟨-, rfl⟩
    · cases h
    · rfl
  case movsToSeg =>
    rcases gate65x02_next h with ⟨-, h⟩ | ⟨-, rfl⟩
    · injection h with h
      subst h
      exact State.setSeg_mem _ _ _
    · rfl
  case movNotB | segxB | illegalXtop1 | movNotW | andW | xorW | orW | movNotL | andL | xorL | orL | movsFromSeg
      | illegalTrx | addB | subB | addW | subW | addL | subL =>
    rcases gate65x02_next h with ⟨-, h⟩ | ⟨-, rfl⟩
    · injection h with h
      subst h
      rfl
    · rfl
  all_goals
    injection h with h
    subst h
    rfl

theorem sameMem_of_mem_eq {s t : State} (h : t.mem = s.mem) : sameMem s t :=
  fun g o => congrArg (fun m : Memory => m.read (addr g o)) h

/-- Settles O14: neither an instruction that is no writer nor an unknown byte changes memory. -/
theorem onlyStoresWriteMemory : Obligations.OnlyStoresWriteMemory := by
  intro s t hrun hstep hne
  rcases step_cases hstep with ⟨hr, -⟩ | ⟨hr, -⟩ | ⟨-, i, u, hi, hexec, rfl⟩ | ⟨-, op, -, rfl⟩
  · cases hrun.symm.trans hr
  · cases hrun.symm.trans hr
  · refine ⟨i, hi, ?_⟩
    by_contra hw
    have hmem : u.mem = s.mem := exec_mem_kept hexec (eq_false_of_ne_true hw)
    exact hne (sameMem_of_mem_eq hmem)
  · exact absurd (sameMem_of_mem_eq rfl) hne

end Sys2Proof.Machine
end

section
/-! PROOF. The decoder and the encoder undo each other (R120, R132 to R143). This part reads an instruction's own bytes:
first the rows of the standard table, then the sub-decoders of the ten families. -/

namespace Sys2Proof

open Sys2Proof.Claims

/-- The encoder's bytes of a well-formed instruction decode to it, whatever follows them. -/
def RoundTrip (i : Instr) : Prop :=
  ∀ (e : ExtOpcodes) (rest : List Byte), e.wf = true → i.wellFormed = true →
    decode e (Window.ofList (encode e i ++ rest)) = .instr i

theorem encode_of_opcode? {i : Instr} {op : Byte} (h : i.opcode? = some op) (e : ExtOpcodes) :
    encode e i = op :: i.operandBytes := by
  simp only [encode, h]

/-- No instruction has both an opcode byte of R132 and a family. -/
theorem opcode?_of_extension? {i : Instr} {p : Family × Byte} (h : i.extension? = some p) : i.opcode? = none := by
  cases i
  case movNotB | segxB | illegalXtop1 | movNotW | andW | xorW | orW | movNotL | andL | xorL | orL | movsToSeg
      | movsFromSeg | illegalTrx | refusedTrx | addB | subB | addW | subW | addL | subL | stB | stW | stL => rfl
  all_goals cases h

theorem encode_of_extension? {i : Instr} {f : Family} {b : Byte} (h : i.extension? = some (f, b)) (e : ExtOpcodes) :
    encode e i = e.byte f :: b :: i.operandBytes := by
  simp only [encode, opcode?_of_extension? h, h]

/-- A row of R132 decodes its byte in every machine. -/
theorem decodesTo_of_lookup {op : Byte} {mk : Window → Instr} (h : standardTable.lookup op = some mk) :
    decodesTo op mk :=
  fun e _ hw => decode_of_lookup h e hw

theorem RoundTrip.of_illFormed {i : Instr} (h : i.wellFormed = false) : RoundTrip i :=
  fun _ _ _ hw => absurd (h.symm.trans hw) Bool.false_ne_true

/-! ## The rows of R132 -/

/-- A standard or 65C02 instruction comes back when its row makes it from the bytes after its opcode. -/
theorem RoundTrip.of_row {i : Instr} {op : Byte} {mk : Window → Instr} (hop : i.opcode? = some op)
    (hrow : standardTable.lookup op = some mk)
    (hmk : ∀ rest, mk (Window.ofList (op :: (i.operandBytes ++ rest))) = i) : RoundTrip i := by
  intro e rest _ _
  rw [encode_of_opcode? hop, List.cons_append, decodesTo_of_lookup hrow e _ rfl, hmk]

/-- The operand of the same mode that a window holds after its opcode (R121, R122). -/
def MemMode.reread (w : Window) : MemMode → MemMode
  | .zp _ => .zp w.b1
  | .zpx _ => .zpx w.b1
  | .zpy _ => .zpy w.b1
  | .abs _ => .abs w.abs
  | .absx _ => .absx w.abs
  | .absy _ => .absy w.abs
  | .indx _ => .indx w.b1
  | .indy _ => .indy w.b1

def Operand.reread (w : Window) : Operand → Operand
  | .imm _ => .imm w.b1
  | .mem m => .mem (m.reread w)

def ShiftTarget.reread (w : Window) : ShiftTarget → ShiftTarget
  | .acc => .acc
  | .mem m => .mem (m.reread w)

/-- The two bytes of an offset, low byte first, are read as that offset (R121). -/
theorem Window.abs_ofList (op : Byte) (a : Half) (rest : List Byte) :
    (Window.ofList (op :: Machine.lo8 a :: Machine.hi8 a :: rest)).abs = a :=
  Machine.half_hi8_lo8 a

theorem MemMode.reread_bytes (m : MemMode) (op : Byte) (rest : List Byte) :
    m.reread (Window.ofList (op :: (m.bytes ++ rest))) = m := by
  cases m with
  | abs a | absx a | absy a => exact congrArg _ (Window.abs_ofList op a rest)
  | zp | zpx | zpy | indx | indy => rfl

theorem Operand.reread_bytes (o : Operand) (op : Byte) (rest : List Byte) :
    o.reread (Window.ofList (op :: (o.bytes ++ rest))) = o := by
  cases o with
  | imm v => rfl
  | mem m => exact congrArg Operand.mem (m.reread_bytes op rest)

theorem ShiftTarget.reread_bytes (t : ShiftTarget) (op : Byte) (rest : List Byte) :
    t.reread (Window.ofList (op :: (t.bytes ++ rest))) = t := by
  cases t with
  | acc => rfl
  | mem m => exact congrArg ShiftTarget.mem (m.reread_bytes op rest)

theorem RoundTrip.of_memMode {mk : MemMode → Instr} {m : MemMode} {op : Byte} (hop : (mk m).opcode? = some op)
    (hbytes : (mk m).operandBytes = m.bytes) (hrow : standardTable.lookup op = some fun w => mk (m.reread w)) :
    RoundTrip (mk m) :=
  .of_row hop hrow fun rest => by rw [hbytes, m.reread_bytes]

theorem RoundTrip.of_operand {mk : Operand → Instr} {o : Operand} {op : Byte} (hop : (mk o).opcode? = some op)
    (hbytes : (mk o).operandBytes = o.bytes) (hrow : standardTable.lookup op = some fun w => mk (o.reread w)) :
    RoundTrip (mk o) :=
  .of_row hop hrow fun rest => by rw [hbytes, o.reread_bytes]

theorem RoundTrip.of_shiftTarget {mk : ShiftTarget → Instr} {t : ShiftTarget} {op : Byte}
    (hop : (mk t).opcode? = some op) (hbytes : (mk t).operandBytes = t.bytes)
    (hrow : standardTable.lookup op = some fun w => mk (t.reread w)) : RoundTrip (mk t) :=
  .of_row hop hrow fun rest => by rw [hbytes, t.reread_bytes]

/-- The instructions of R132 come back: in a mode they have by its row, in any other they have no bytes. -/
theorem roundTrip_standard {i : Instr} (h : i.extension? = none) : RoundTrip i := by
  cases i
  case lda o | adc o | sbc o | and o | eor o | ora o | cmp o =>
    cases o with
    | imm v => exact .of_operand rfl rfl rfl
    | mem m =>
      cases m with
      | zpy => exact .of_illFormed rfl
      | zp | zpx | abs | absx | absy | indx | indy => exact .of_operand rfl rfl rfl
  case ldx o =>
    cases o with
    | imm v => exact .of_operand rfl rfl rfl
    | mem m =>
      cases m with
      | zpx | absx | indx | indy => exact .of_illFormed rfl
      | zp | zpy | abs | absy => exact .of_operand rfl rfl rfl
  case ldy o =>
    cases o with
    | imm v => exact .of_operand rfl rfl rfl
    | mem m =>
      cases m with
      | zpy | absy | indx | indy => exact .of_illFormed rfl
      | zp | zpx | abs | absx => exact .of_operand rfl rfl rfl
  case cpx o | cpy o =>
    cases o with
    | imm v => exact .of_operand rfl rfl rfl
    | mem m =>
      cases m with
      | zpx | zpy | absx | absy | indx | indy => exact .of_illFormed rfl
      | zp | abs => exact .of_operand rfl rfl rfl
  case sta m =>
    cases m with
    | zpy => exact .of_illFormed rfl
    | zp | zpx | abs | absx | absy | indx | indy => exact .of_memMode rfl rfl rfl
  case stx m =>
    cases m with
    | zpx | absx | absy | indx | indy => exact .of_illFormed rfl
    | zp | zpy | abs => exact .of_memMode rfl rfl rfl
  case sty m =>
    cases m with
    | zpy | absx | absy | indx | indy => exact .of_illFormed rfl
    | zp | zpx | abs => exact .of_memMode rfl rfl rfl
  case bit m =>
    cases m with
    | zpx | zpy | absx | absy | indx | indy => exact .of_illFormed rfl
    | zp | abs => exact .of_memMode rfl rfl rfl
  case stz m | inc m | dec m =>
    cases m with
    | zpy | absy | indx | indy => exact .of_illFormed rfl
    | zp | zpx | abs | absx => exact .of_memMode rfl rfl rfl
  case asl t | lsr t | rol t | ror t =>
    cases t with
    | acc => exact .of_shiftTarget rfl rfl rfl
    | mem m =>
      cases m with
      | zpy | absy | indx | indy => exact .of_illFormed rfl
      | zp | zpx | abs | absx => exact .of_shiftTarget rfl rfl rfl
  case jmpAbs a | jmpInd a | jsr a => exact .of_row rfl rfl fun rest => congrArg _ (Window.abs_ofList _ a rest)
  case illegalTrx x g => exact .of_illFormed (by simpa [Instr.extension?, Instr.wellFormed] using h)
  case movNotB | segxB | illegalXtop1 | movNotW | andW | xorW | orW | movNotL | andL | xorL | orL | movsToSeg
      | movsFromSeg | refusedTrx | addB | subB | addW | subW | addL | subL | stB | stW | stL => cases h
  all_goals exact .of_row rfl rfl fun _ => rfl

/-! ## The extension -/

/-- An extension instruction comes back when its family's sub-decoder makes it from its sub-byte and the bytes after
it. -/
theorem RoundTrip.of_family {i : Instr} {f : Family} {b : Byte} (hext : i.extension? = some (f, b))
    (hdec : ∀ op rest, decodeExt f (Window.ofList (op :: b :: (i.operandBytes ++ rest))) = i) : RoundTrip i := by
  intro e rest he _
  rw [encode_of_extension? hext, List.cons_append, List.cons_append, decode_extension he rfl, hdec]

theorem decodeXtop1_segx (x : BitVec 6) : decodeXtop1 (1#2 ++ x) = .segxB x := by
  revert x
  decide +kernel

theorem decodeXtop1_illegal (x : BitVec 7) : decodeXtop1 (1#1 ++ x) = .illegalXtop1 x := by
  revert x
  decide +kernel

theorem decodeTrx_toSeg (g : SegReg) (r : RegField) : decodeTrx (subByte 0 r g.number) = .movsToSeg g r := by
  cases g <;> revert r <;> decide +kernel

theorem decodeTrx_fromSeg (r : RegField) (g : SegReg) : decodeTrx (subByte 1 r g.number) = .movsFromSeg r g := by
  cases g <;> revert r <;> decide +kernel

theorem decodeTrx_illegal (x : BitVec 4) (g : BitVec 3) (h : 3 ≤ g.toNat) :
    decodeTrx (0#1 ++ x ++ g) = .illegalTrx x g := by
  revert x g
  decide +kernel

theorem decodeTrx_refused (x : BitVec 7) : decodeTrx (1#1 ++ x) = .refusedTrx x := by
  revert x
  decide +kernel

/-! Each MATH sub-decoder, on a sub-byte with the constant's bytes after it when there is one (R138, R142). -/

section

variable (op : Byte) (d s : RegField) (rest : List Byte)

theorem decodeMath1_bytes (k : Option Byte) (sub : Bool) :
    decodeMath1 (Window.ofList (op :: subByte (mathTop k.isSome sub) d s :: (k.elim [] (leBytes 1) ++ rest))) =
      if sub then .subB d s k else .addB d s k := by
  cases k <;> simp [decodeMath1, mathConst, Window.ofList, leBytes]

theorem decodeMath2_bytes (k : Option Half) (sub : Bool) :
    decodeMath2 (Window.ofList (op :: subByte (mathTop k.isSome sub) d s :: (k.elim [] (leBytes 2) ++ rest))) =
      if sub then .subW d s k else .addW d s k := by
  cases k <;> simp [decodeMath2, mathConst, Window.ofList, leBytes, List.range_succ, le16_bytes]

theorem decodeMath3_bytes (k : Option Slot) (sub : Bool) :
    decodeMath3 (Window.ofList (op :: subByte (mathTop k.isSome sub) d s :: (k.elim [] (leBytes 4) ++ rest))) =
      if sub then .subL d s k else .addL d s k := by
  cases k with
  | none => simp [decodeMath3, mathConst, Window.ofList]
  | some c =>
    have hc := le32_bytes c
    simp [decodeMath3, mathConst, Window.ofList, leBytes, List.range_succ, hc]

end

/-- The STOR mode read back from its number and its operand bytes (R140). -/
theorem decodeStoreMode_bytes (m : StoreMode) (op : Byte) (i s : RegField) (rest : List Byte) :
    decodeStoreMode (Window.ofList (op :: subByte m.number i s :: (m.bytes ++ rest))) = m := by
  cases m <;> simp [decodeStoreMode, StoreMode.number, StoreMode.bytes, Window.ofList]

theorem roundTrip_extension {i : Instr} {p : Family × Byte} (h : i.extension? = some p) : RoundTrip i := by
  cases i
  case movNotB | movNotW | andW | xorW | orW | movNotL | andL | xorL | orL =>
    refine .of_family rfl fun op rest => ?_
    simp [decodeExt, decodeXtop1, decodeXtop2, decodeXtop3, Window.ofList]
  case segxB x => exact .of_family rfl fun _ _ => decodeXtop1_segx x
  case illegalXtop1 x => exact .of_family rfl fun _ _ => decodeXtop1_illegal x
  case movsToSeg g r => exact .of_family rfl fun _ _ => decodeTrx_toSeg g r
  case movsFromSeg r g => exact .of_family rfl fun _ _ => decodeTrx_fromSeg r g
  case refusedTrx x => exact .of_family rfl fun _ _ => decodeTrx_refused x
  case illegalTrx x g =>
    by_cases hg : 3 ≤ g.toNat
    · exact .of_family (if_pos hg) fun _ _ => decodeTrx_illegal x g hg
    · exact .of_illFormed (decide_eq_false hg)
  case stB s i m | stW s i m | stL s i m =>
    refine .of_family rfl fun op rest => ?_
    simp only [decodeExt, Instr.operandBytes, decodeStoreMode_bytes]
    simp [Window.ofList]
  case addB d s k => exact .of_family rfl fun op rest => decodeMath1_bytes op d s rest k false
  case subB d s k => exact .of_family rfl fun op rest => decodeMath1_bytes op d s rest k true
  case addW d s k => exact .of_family rfl fun op rest => decodeMath2_bytes op d s rest k false
  case subW d s k => exact .of_family rfl fun op rest => decodeMath2_bytes op d s rest k true
  case addL d s k => exact .of_family rfl fun op rest => decodeMath3_bytes op d s rest k false
  case subL d s k => exact .of_family rfl fun op rest => decodeMath3_bytes op d s rest k true
  all_goals cases h

/-- Settles O1, for the instructions of R132 and for those of the extension. -/
theorem decodeEncodeAgree : Obligations.DecodeEncodeAgree := by
  intro e i rest he hw
  cases hi : i.extension? with
  | none => exact roundTrip_standard hi e rest he hw
  | some p => exact roundTrip_extension hi e rest he hw

end Sys2Proof
end

section
/-! PROOF. The decoder and the encoder undo each other, the other way round (R120, R133, R134, R143): what the decoder
reads encodes back to the bytes it read, first for the rows of the standard table, then for the sub-decoders of the
ten families. -/

namespace Sys2Proof

/-! ## The rows of R132 -/

@[simp] theorem Window.lo8_abs (w : Window) : Machine.lo8 w.abs = w.b1 := Machine.lo8_half w.b2 w.b1

@[simp] theorem Window.hi8_abs (w : Window) : Machine.hi8 w.abs = w.b2 := Machine.hi8_half w.b2 w.b1

/-- The instruction is a well-formed one of R132 whose bytes begin the window. -/
def ReadsStandard (w : Window) (op : Byte) (i : Instr) : Prop :=
  i.wellFormed = true ∧ i.opcode? = some op ∧ i.operandBytes <+: [w.b1, w.b2]

/-- A row of R132 reads the instruction of its own opcode byte, with the bytes after it as operand. -/
def RowReads (r : OpcodeRow) : Prop := ∀ w, ReadsStandard w r.1 (r.2 w)

theorem loadStoreRows_read : ∀ r ∈ loadStoreRows, RowReads r := by
  simp only [loadStoreRows, List.forall_mem_cons, List.not_mem_nil, false_implies, implies_true, and_true]
  and_intros <;> exact fun w => ⟨rfl, rfl, by simp [Instr.operandBytes, Operand.bytes, MemMode.bytes]⟩

theorem aluRows_read : ∀ r ∈ aluRows, RowReads r := by
  simp only [aluRows, List.forall_mem_cons, List.not_mem_nil, false_implies, implies_true, and_true]
  and_intros <;> exact fun w => ⟨rfl, rfl, by simp [Instr.operandBytes, Operand.bytes, MemMode.bytes]⟩

theorem compareModifyRows_read : ∀ r ∈ compareModifyRows, RowReads r := by
  simp only [compareModifyRows, List.forall_mem_cons, List.not_mem_nil, false_implies, implies_true, and_true]
  and_intros <;> exact fun w =>
    ⟨rfl, rfl, by simp [Instr.operandBytes, Operand.bytes, ShiftTarget.bytes, MemMode.bytes]⟩

theorem controlRows_read : ∀ r ∈ controlRows, RowReads r := by
  simp only [controlRows, List.forall_mem_cons, List.not_mem_nil, false_implies, implies_true, and_true]
  and_intros <;> exact fun w => ⟨rfl, rfl, by simp [Instr.operandBytes]⟩

theorem standardTable_reads : ∀ r ∈ standardTable, RowReads r := by
  simp only [standardTable, List.forall_mem_append]
  exact ⟨⟨⟨loadStoreRows_read, aluRows_read⟩, compareModifyRows_read⟩, controlRows_read⟩

theorem decodeStandard_reads {w : Window} {i : Instr} (h : decodeStandard w = some i) : ReadsStandard w w.b0 i := by
  obtain ⟨mk, hrow, rfl⟩ := Option.map_eq_some_iff.mp h
  obtain ⟨before, after, htable, -⟩ := List.lookup_eq_some_iff.mp hrow
  exact standardTable_reads (w.b0, mk) (htable ▸ List.mem_append_right before (List.mem_cons_self)) w

/-! ## The sub-decoders of the families -/

/-- The instruction is a well-formed one of family f whose sub-byte and operand bytes stand in the window. -/
def ReadsExtension (w : Window) (f : Family) (i : Instr) : Prop :=
  i.wellFormed = true ∧ i.extension? = some (f, w.b1) ∧ i.operandBytes <+: [w.b2, w.b3, w.b4, w.b5]

/-! The register families and TRX, by their 256 sub-bytes. -/

theorem decodeXtop1_reads (b : Byte) : (decodeXtop1 b).wellFormed = true ∧
    (decodeXtop1 b).extension? = some (.xtop1, b) ∧ (decodeXtop1 b).operandBytes = [] := by
  revert b
  decide +kernel

theorem decodeXtop2_reads (b : Byte) : (decodeXtop2 b).wellFormed = true ∧
    (decodeXtop2 b).extension? = some (.xtop2, b) ∧ (decodeXtop2 b).operandBytes = [] := by
  revert b
  decide +kernel

theorem decodeXtop3_reads (b : Byte) : (decodeXtop3 b).wellFormed = true ∧
    (decodeXtop3 b).extension? = some (.xtop3, b) ∧ (decodeXtop3 b).operandBytes = [] := by
  revert b
  decide +kernel

theorem decodeTrx_reads (b : Byte) : (decodeTrx b).wellFormed = true ∧
    (decodeTrx b).extension? = some (.xtop1Trx, b) ∧ (decodeTrx b).operandBytes = [] := by
  revert b
  decide +kernel

theorem ReadsExtension.of_subByte {w : Window} {f : Family} {i : Instr}
    (h : i.wellFormed = true ∧ i.extension? = some (f, w.b1) ∧ i.operandBytes = []) : ReadsExtension w f i := by
  obtain ⟨hw, hext, hbytes⟩ := h
  exact ⟨hw, hext, hbytes ▸ List.nil_prefix⟩

/-! The constants of MATH (R138, R142): as many bytes as the width has, in the order they were read. -/

theorem leBytes_byte (v : Byte) : leBytes 1 v = [v] := by simp [leBytes]

theorem leBytes_half (hi lo : Byte) : leBytes 2 (hi ++ lo : Half) = [lo, hi] := by
  have hlo : (hi ++ lo : Half).extractLsb' 0 8 = lo := Machine.lo8_half hi lo
  have hhi : (hi ++ lo : Half).extractLsb' 8 8 = hi := Machine.hi8_half hi lo
  simp [leBytes, List.range_succ, hlo, hhi]

theorem leBytes_slot (b3 b2 b1 b0 : Byte) : leBytes 4 ((b3 ++ b2) ++ (b1 ++ b0) : Slot) = [b0, b1, b2, b3] := by
  show [BitVec.extractLsb' 0 8 _, BitVec.extractLsb' 8 8 _, BitVec.extractLsb' 16 8 _, BitVec.extractLsb' 24 8 _] = _
  simp (disch := decide) only [BitVec.extractLsb'_append_eq_of_add_le, BitVec.extractLsb'_append_eq_of_le]
  simp only [Nat.reduceAdd, Nat.reduceSub, BitVec.extractLsb'_eq_self]

theorem mathTop_eq_subTop (b : Byte) : mathTop (b.getLsbD 7) (b.getLsbD 6) = subTop b := by
  revert b
  decide +kernel

theorem isSome_mathConst {α : Type} (b : Byte) (k : α) : (mathConst b k).isSome = b.getLsbD 7 := by
  rw [mathConst]
  split <;> simp_all

/-- A MATH sub-byte is made again from its constant flag, its op-flag and its fields. -/
theorem mathSubByte_fields {α : Type} {b : Byte} {sub : Bool} (hsub : b.getLsbD 6 = sub) (k : α) :
    subByte (mathTop (mathConst b k).isSome sub) (subMid b) (subLow b) = b := by
  rw [isSome_mathConst, ← hsub, mathTop_eq_subTop, subByte_fields]

/-- A MATH instruction whose op-flag is bit 6, with the constant `k` when bit 7 is 1. -/
theorem ReadsExtension.of_math {α : Type} {w : Window} {f : Family} {i : Instr} {k : α} {sub : Bool}
    {bytes : α → List Byte} (hw : i.wellFormed = true)
    (hext : i.extension? = some (f, subByte (mathTop (mathConst w.b1 k).isSome sub) (subMid w.b1) (subLow w.b1)))
    (hops : i.operandBytes = (mathConst w.b1 k).elim [] bytes) (hsub : w.b1.getLsbD 6 = sub)
    (hbytes : bytes k <+: [w.b2, w.b3, w.b4, w.b5]) : ReadsExtension w f i := by
  refine ⟨hw, by rw [hext, mathSubByte_fields hsub], ?_⟩
  rw [hops, mathConst]
  split
  · exact hbytes
  · exact List.nil_prefix

theorem decodeMath1_reads (w : Window) : ReadsExtension w .xtop1Math (decodeMath1 w) := by
  have hk : leBytes 1 w.b2 <+: [w.b2, w.b3, w.b4, w.b5] := leBytes_byte w.b2 ▸ List.prefix_append [w.b2] _
  rw [decodeMath1]
  split
  case isTrue h => exact .of_math rfl rfl rfl h hk
  case isFalse h => exact .of_math rfl rfl rfl (eq_false_of_ne_true h) hk

theorem decodeMath2_reads (w : Window) : ReadsExtension w .xtop2Math (decodeMath2 w) := by
  have hk : leBytes 2 (w.b3 ++ w.b2 : Half) <+: [w.b2, w.b3, w.b4, w.b5] :=
    leBytes_half w.b3 w.b2 ▸ List.prefix_append [w.b2, w.b3] _
  rw [decodeMath2]
  split
  case isTrue h => exact .of_math rfl rfl rfl h hk
  case isFalse h => exact .of_math rfl rfl rfl (eq_false_of_ne_true h) hk

theorem decodeMath3_reads (w : Window) : ReadsExtension w .xtop3Math (decodeMath3 w) := by
  have hk : leBytes 4 ((w.b5 ++ w.b4) ++ (w.b3 ++ w.b2) : Slot) <+: [w.b2, w.b3, w.b4, w.b5] :=
    leBytes_slot w.b5 w.b4 w.b3 w.b2 ▸ List.prefix_rfl
  rw [decodeMath3]
  split
  case isTrue h => exact .of_math rfl rfl rfl h hk
  case isFalse h => exact .of_math rfl rfl rfl (eq_false_of_ne_true h) hk

/-- The STOR mode a window holds has the sub-byte's number, and its operand bytes follow the sub-byte (R140). -/
theorem decodeStoreMode_reads (w : Window) : (decodeStoreMode w).number = subTop w.b1 ∧
    (decodeStoreMode w).bytes <+: [w.b2, w.b3, w.b4, w.b5] := by
  have hstack : ∀ m : BitVec 2, m ≠ 0 → m ≠ 1 → m ≠ 2 → m = 3 := by decide
  rw [decodeStoreMode]
  split
  case isTrue h => exact ⟨h.symm, List.prefix_append [w.b2] _⟩
  split
  case isTrue h => exact ⟨h.symm, by simp [StoreMode.bytes]⟩
  split
  case isTrue h => exact ⟨h.symm, by simp [StoreMode.bytes]⟩
  case isFalse h0 h1 h2 => exact ⟨(hstack _ h0 h1 h2).symm, List.prefix_append [w.b2] _⟩

/-- A STOR sub-byte is made again from its mode and its fields (R140). -/
theorem ReadsExtension.of_stor {w : Window} {f : Family} {i : Instr} (hw : i.wellFormed = true)
    (hext : i.extension? = some (f, subByte (decodeStoreMode w).number (subMid w.b1) (subLow w.b1)))
    (hops : i.operandBytes = (decodeStoreMode w).bytes) : ReadsExtension w f i := by
  obtain ⟨hnumber, hbytes⟩ := decodeStoreMode_reads w
  exact ⟨hw, by rw [hext, hnumber, subByte_fields], hops ▸ hbytes⟩

theorem decodeExt_reads (f : Family) (w : Window) : ReadsExtension w f (decodeExt f w) := by
  cases f
  case xtop1 => exact .of_subByte (decodeXtop1_reads w.b1)
  case xtop2 => exact .of_subByte (decodeXtop2_reads w.b1)
  case xtop3 => exact .of_subByte (decodeXtop3_reads w.b1)
  case xtop1Trx => exact .of_subByte (decodeTrx_reads w.b1)
  case xtop1Math => exact decodeMath1_reads w
  case xtop2Math => exact decodeMath2_reads w
  case xtop3Math => exact decodeMath3_reads w
  case xtop1Stor | xtop2Stor | xtop3Stor => exact .of_stor rfl rfl rfl

/-! ## The decoder -/

/-- What the decoder can read (R134): a row of R132, or the sub-decoder of the family whose byte comes first. -/
theorem decode_cases {e : ExtOpcodes} {w : Window} {i : Instr} (h : decode e w = .instr i) :
    ReadsStandard w w.b0 i ∨ ∃ f, e.byte f = w.b0 ∧ ReadsExtension w f i := by
  rw [decode] at h
  split at h
  case h_1 j hj =>
    cases h
    exact .inl (decodeStandard_reads hj)
  case h_2 =>
    split at h
    case h_1 f hf =>
      cases h
      exact .inr ⟨f, ExtOpcodes.byte_of_family? hf, decodeExt_reads f w⟩
    case h_2 => cases h

/-- What the decoder reads is well-formed, and its bytes begin the window it was read from. -/
theorem encode_prefix_of_decode {e : ExtOpcodes} {w : Window} {i : Instr} (h : decode e w = .instr i) :
    i.wellFormed = true ∧ encode e i ≠ [] ∧ encode e i <+: w.bytes := by
  rcases decode_cases h with ⟨hw, hop, hbytes⟩ | ⟨f, hf, hw, hext, hbytes⟩
  · rw [encode_of_opcode? hop]
    refine ⟨hw, List.cons_ne_nil _ _, List.cons_prefix_cons.mpr ⟨rfl, hbytes.trans ?_⟩⟩
    exact List.prefix_append [w.b1, w.b2] _
  · rw [encode_of_extension? hext, hf]
    exact ⟨hw, List.cons_ne_nil _ _, List.cons_prefix_cons.mpr ⟨rfl, List.cons_prefix_cons.mpr ⟨rfl, hbytes⟩⟩⟩

/-- Settles O2: the bytes of what was read are the first ones of the window, which has six. -/
theorem decodedBytesEncodeBack : Obligations.DecodedBytesEncodeBack := by
  intro e w i h
  obtain ⟨hw, hne, hbytes⟩ := encode_prefix_of_decode h
  exact ⟨hw, List.prefix_iff_eq_take.mp hbytes, List.length_pos_iff.mpr hne, hbytes.length_le⟩

/-- Settles O3: the decoder rejects a byte that has neither a row nor a family. -/
theorem illegalBytesAreTheFreeOnes : Obligations.IllegalBytesAreTheFreeOnes := by
  intro e w op
  rw [← lookup_eq_none_iff, ← ExtOpcodes.family?_eq_none_iff, decode, decodeStandard]
  cases hrow : standardTable.lookup w.b0 with
  | some mk => simp
  | none => cases hf : e.family? w.b0 <;> simp [eq_comm]

end Sys2Proof
end

section
/-! PROOF. Samples of the encoding, and what the encoding says about a step: PC moves by the encoded length (R121, R143)
and JMP indirect reads its pointer (R130). -/

namespace Sys2Proof.Machine

open Sys2Proof.Claims

/-- Settles O4, word by word. -/
theorem sampleWordsDecode : Obligations.SampleWordsDecode :=
  ⟨rfl, rfl, rfl, rfl, rfl, rfl, rfl⟩

/-! ## The length of an instruction (R143) -/

/-- The bytes of an instruction: the opcode, or the family byte and the sub-byte, and the operand bytes. -/
def encodedSize (i : Instr) : Nat := (if i.extension?.isSome then 2 else 1) + i.operandBytes.length

theorem encode_ne_nil {i : Instr} (hw : i.wellFormed = true) (e : ExtOpcodes) : encode e i ≠ [] := by
  cases i
  case lda o => exact (Laws.Encodes.lda o e).1.mpr hw
  case ldx o => exact (Laws.Encodes.ldx o e).1.mpr hw
  case ldy o => exact (Laws.Encodes.ldy o e).1.mpr hw
  case sta m => exact (Laws.Encodes.sta m e).1.mpr hw
  case stx m => exact (Laws.Encodes.stx m e).1.mpr hw
  case sty m => exact (Laws.Encodes.sty m e).1.mpr hw
  case stz m => exact (Laws.Encodes.stz m e).1.mpr hw
  case adc o => exact (Laws.Encodes.adc o e).1.mpr hw
  case sbc o => exact (Laws.Encodes.sbc o e).1.mpr hw
  case and o => exact (Laws.Encodes.and o e).1.mpr hw
  case eor o => exact (Laws.Encodes.eor o e).1.mpr hw
  case ora o => exact (Laws.Encodes.ora o e).1.mpr hw
  case bit m => exact (Laws.Encodes.bit m e).1.mpr hw
  case cmp o => exact (Laws.Encodes.cmp o e).1.mpr hw
  case cpx o => exact (Laws.Encodes.cpx o e).1.mpr hw
  case cpy o => exact (Laws.Encodes.cpy o e).1.mpr hw
  case inc m => exact (Laws.Encodes.inc m e).1.mpr hw
  case dec m => exact (Laws.Encodes.dec m e).1.mpr hw
  case asl t => exact (Laws.Encodes.asl t e).1.mpr hw
  case lsr t => exact (Laws.Encodes.lsr t e).1.mpr hw
  case rol t => exact (Laws.Encodes.rol t e).1.mpr hw
  case ror t => exact (Laws.Encodes.ror t e).1.mpr hw
  case illegalTrx x g => exact (Laws.Encodes.illegalTrx x g e).1.mpr hw
  all_goals exact List.cons_ne_nil _ _

theorem length_encode {i : Instr} (hw : i.wellFormed = true) (e : ExtOpcodes) :
    (encode e i).length = encodedSize i := by
  cases hext : i.extension? with
  | some p =>
    rw [encode_of_extension? hext, encodedSize, hext]
    exact Nat.add_comm _ 2
  | none =>
    cases hop : i.opcode? with
    | some op =>
      rw [encode_of_opcode? hop, encodedSize, hext]
      exact Nat.add_comm _ 1
    | none =>
      refine absurd ?_ (encode_ne_nil hw e)
      simp only [encode, hop, hext]

/-- The bytes of a MATH constant are as many as the width has, when there is one (R138, R142). -/
theorem mathLength_eq {w : Nat} (n : Nat) (k : Option (BitVec w)) :
    mathLength n k = 2 + (k.elim [] (leBytes n)).length := by
  cases k with
  | none => rfl
  | some c => simp [mathLength, leBytes]

/-- Behind an open gate an instruction that is no control transfer moves PC by its size; the sub-bytes that raise
ILLEGAL_SUBOP are two bytes (R453, D28). -/
theorem exec_pc {i : Instr} {s t : State} (hw : i.wellFormed = true) (hgate : s.gateOpen i = true)
    (hflow : writesFlow i = false) (h : exec i s = .next t) : t.pc = s.pc + BitVec.ofNat 16 (encodedSize i) := by
  cases i
  case bpl | bmi | bvc | bvs | bcc | bcs | bne | beq | bra | jmpAbs | jmpInd | jsr | rts | rti | brk => cases hflow
  case lda o | ldx o | ldy o | adc o | sbc o | and o | eor o | ora o | cmp o | cpx o | cpy o =>
    injection h with h
    subst h
    rw [encodedSize, Instr.operandBytes, operandLength_eq]
    rfl
  case sta m | stx m | sty m | bit m | inc m | dec m =>
    injection h with h
    subst h
    rw [encodedSize, Instr.operandBytes, memLength_eq]
    rfl
  case stz m =>
    injection (gate65c02_open hgate _ _).symm.trans h with h
    subst h
    rw [encodedSize, Instr.operandBytes, memLength_eq]
    rfl
  case asl d | lsr d | rol d | ror d =>
    injection h with h
    subst h
    cases d with
    | acc => rfl
    | mem m =>
      rw [encodedSize, Instr.operandBytes, ShiftTarget.bytes, memLength_eq]
      rfl
  case movsToSeg g r =>
    injection (gate65x02_open hgate _ _).symm.trans h with h
    subst h
    rw [State.setSeg_pc]
    rfl
  case addB d src k | subB d src k | addW d src k | subW d src k | addL d src k | subL d src k =>
    injection (gate65x02_open hgate _ _).symm.trans h with h
    subst h
    exact congrArg (s.pc + BitVec.ofNat 16 ·) (mathLength_eq _ k)
  case stB src j m | stW src j m | stL src j m =>
    injection (gate65x02_open hgate _ _).symm.trans h with h
    subst h
    rw [State.stor_eq, encodedSize, Instr.operandBytes, storeLength_eq]
    rfl
  case illegalTrx x g =>
    have hg : 3 ≤ g.toNat := of_decide_eq_true hw
    simp only [State.gateOpen, Instr.extension?, hg, if_true] at hgate
    injection (gate65x02_open hgate _ _).symm.trans h with h
    subst h
    simp only [encodedSize, Instr.extension?, hg, if_true]
    rfl
  case refusedTrx => cases (gate65x02_open hgate _ _).symm.trans h
  case movNotB | segxB | illegalXtop1 | movNotW | andW | xorW | orW | movNotL | andL | xorL | orL | movsFromSeg =>
    injection (gate65x02_open hgate _ _).symm.trans h with h
    subst h
    rfl
  all_goals
    injection h with h
    subst h
    rfl

/-- Settles O16, by the length of the encoding. -/
theorem pcMovesPastTheInstruction : Obligations.PcMovesPastTheInstruction := by
  intro e s t i hw hgate hflow h
  rw [length_encode hw e]
  exact exec_pc hw hgate hflow h

/-! ## JMP indirect (R130, R301) -/

/-- The next offset stays in its page, except from the last offset of the page. -/
theorem half_lo8_succ (a : Half) (h : lo8 a ≠ 0xFF) : half (hi8 a) (lo8 a + 1) = a + 1 := by
  have hlo : (lo8 a).toNat ≠ 255 := fun e => h (BitVec.eq_of_toNat_eq e)
  have hsucc : (a + 1).toNat = (a.toNat + 1) % 65536 := BitVec.toNat_add a 1
  apply BitVec.eq_of_toNat_eq
  rw [lo8_toNat] at hlo
  rw [half_toNat, hi8_toNat, byte_succ_toNat, lo8_toNat, hsucc]
  omega

/-- With the page wrap (D18) the pointer's high byte is read at the next offset of the pointer's own page. -/
theorem State.jmpPointerHigh_eq (s : State) (a : Half) :
    s.jmpPointerHigh a = if s.params.jmpIndPageWrap then half (hi8 a) (lo8 a + 1) else a + 1 := by
  rw [State.jmpPointerHigh]
  by_cases hlo : lo8 a = 0xFF
  · simp [hlo]
  · simp only [hlo, false_and, if_false, half_lo8_succ a hlo, ite_self]

/-- Settles O44: the encoding by its row, the target by where the pointer's high byte is. -/
theorem jumpIndirectReadsItsPointer : Obligations.JumpIndirectReadsItsPointer := by
  refine ⟨decodesTo_of_lookup rfl, fun s a => ?_⟩
  rw [← State.jmpPointerHigh_eq]
  exact ⟨s.setPc (s.jmpTarget a), rfl, rfl, rfl, rfl, rfl, fun _ _ => rfl, ⟨rfl, rfl, rfl⟩, ⟨rfl, rfl⟩, rfl, rfl, rfl,
    rfl⟩

end Sys2Proof.Machine
end

section
/-! PROOF. The extension behind its gate (R136, R451), and the register operations of XTOP1, XTOP2 and XTOP3 behind an
open one (R360 to R371). -/

namespace Sys2Proof.Machine

open Sys2Proof.Claims

/-- Every extension instruction stands behind the gate of its family (R136). -/
theorem exec_extension {i : Instr} {f : Family} {b : Byte} (h : i.extension? = some (f, b)) (s : State) :
    ∃ k, exec i s = s.gate65x02 f k := by
  cases i
  case illegalTrx x g =>
    simp only [Instr.extension?] at h
    split at h
    · cases h
      exact ⟨_, rfl⟩
    · cases h
  case movNotB | segxB | illegalXtop1 | movNotW | andW | xorW | orW | movNotL | andL | xorL | orL | movsToSeg
      | movsFromSeg | refusedTrx | addB | subB | addW | subW | addL | subL | stB | stW | stL =>
    cases h
    exact ⟨_, rfl⟩
  all_goals cases h

/-- Settles O53: the closed gate raises ILLEGAL_OPCODE, whatever is behind it. -/
theorem closedGateRejectsTheExtension : Obligations.ClosedGateRejectsTheExtension := by
  intro s i f b hext hgate
  obtain ⟨k, hexec⟩ := exec_extension hext s
  exact ⟨_, hexec.trans (gate65x02_closed hgate f k), s.raiseIllegal_takes .opcode [s.params.ext.byte f]⟩

/-! ## The register operations -/

/-- A sub-op is read as its family's sub-decoder reads it (R136, R137). -/
theorem subOpEncoding_of_decodeExt {f : Family} {op : BitVec 2} {mk : RegField → RegField → Instr}
    (h : ∀ w, subTop w.b1 = op → decodeExt f w = mk (subMid w.b1) (subLow w.b1)) : subOpEncoding f op mk :=
  fun _ w he hw htop _ => (decode_extension he hw).trans (congrArg Decoded.instr (h w htop))

theorem subOpEncoding_xtop1 : subOpEncoding .xtop1 0 .movNotB :=
  subOpEncoding_of_decodeExt fun _ h => if_pos h

theorem subOpEncoding_xtop2 : subOpEncoding .xtop2 0 .movNotW ∧ subOpEncoding .xtop2 1 .andW ∧
    subOpEncoding .xtop2 2 .xorW ∧ subOpEncoding .xtop2 3 .orW := by
  and_intros <;> exact subOpEncoding_of_decodeExt fun _ h => by simp [decodeExt, decodeXtop2, h]

theorem subOpEncoding_xtop3 : subOpEncoding .xtop3 0 .movNotL ∧ subOpEncoding .xtop3 1 .andL ∧
    subOpEncoding .xtop3 2 .xorL ∧ subOpEncoding .xtop3 3 .orL := by
  and_intros <;> exact subOpEncoding_of_decodeExt fun _ h => by simp [decodeExt, decodeXtop3, h]

/-- A two-byte register operation writes the view its field names (D2), and nothing else but PC. -/
theorem writesView_regOp {w : Nat} (hw : w = 8 ∨ w = 16 ∨ w = 32) {i : Instr} {s : State} {d : RegField} {v : BitVec w}
    (h : exec i s = .next (s.regOp d v)) : writesView w d.toNat v s.flags 2 i s := by
  have hd : d.toNat < 256 / w := by
    have := d.isLt
    rcases hw with rfl | rfl | rfl <;> omega
  exact ⟨s.regOp d v, h, (s.advance 2).view_setView_same d.toNat v hw, rfl, rfl, rfl,
    fun _ hk hne => (s.advance 2).view8_setView_other v hw hd hk hne, fun _ _ => rfl, ⟨rfl, rfl, rfl⟩, ⟨rfl, rfl⟩,
    rfl, rfl, rfl, rfl⟩

/-- An instruction that is a register operation behind its family's gate. -/
theorem regOpRule_of_exec {w : Nat} (hw : w = 8 ∨ w = 16 ∨ w = 32) (f : Family) {mk : RegField → RegField → Instr}
    {v : State → RegField → RegField → BitVec w}
    (h : ∀ s d src, exec (mk d src) s = s.gate65x02 f (.next (s.regOp d (v s d src)))) : regOpRule w mk v :=
  fun s d src hgate => writesView_regOp hw ((h s d src).trans (gate65x02_open hgate f _))

/-- Settles O54: the sub-bytes by the sub-decoders, the effects by one rule for the three widths. -/
theorem registerOperationsWriteTheDestination : Obligations.RegisterOperationsWriteTheDestination := by
  obtain ⟨hmovW, handW, hxorW, horW⟩ := subOpEncoding_xtop2
  obtain ⟨hmovL, handL, hxorL, horL⟩ := subOpEncoding_xtop3
  have h8 : 8 = 8 ∨ 8 = 16 ∨ 8 = 32 := .inl rfl
  have h16 : 16 = 8 ∨ 16 = 16 ∨ 16 = 32 := .inr (.inl rfl)
  have h32 : 32 = 8 ∨ 32 = 16 ∨ 32 = 32 := .inr (.inr rfl)
  exact ⟨subOpEncoding_xtop1, hmovW, handW, hxorW, horW, hmovL, handL, hxorL, horL,
    regOpRule_of_exec h8 .xtop1 fun _ _ _ => rfl, regOpRule_of_exec h16 .xtop2 fun _ _ _ => rfl,
    regOpRule_of_exec h32 .xtop3 fun _ _ _ => rfl,
    regOpRule_of_exec h16 .xtop2 fun _ _ _ => rfl, regOpRule_of_exec h16 .xtop2 fun _ _ _ => rfl,
    regOpRule_of_exec h16 .xtop2 fun _ _ _ => rfl,
    regOpRule_of_exec h32 .xtop3 fun _ _ _ => rfl, regOpRule_of_exec h32 .xtop3 fun _ _ _ => rfl,
    regOpRule_of_exec h32 .xtop3 fun _ _ _ => rfl⟩

end Sys2Proof.Machine
end

section
/-! PROOF. Loads, stores and transfers (R200 to R226): each instruction is one of a few updates of the state, and the
shape its statement asks for is read off that update. -/

namespace Sys2Proof.Machine

open Sys2Proof.Claims

/-! ## Encodings by the rows of R132 -/

theorem aluEncoding_of_lookup {mk : Operand → Instr} {imm zp zpx abs absx absy indx indy : Byte}
    (himm : standardTable.lookup imm = some fun w => mk (.imm w.b1))
    (hzp : standardTable.lookup zp = some fun w => mk (.mem (.zp w.b1)))
    (hzpx : standardTable.lookup zpx = some fun w => mk (.mem (.zpx w.b1)))
    (habs : standardTable.lookup abs = some fun w => mk (.mem (.abs w.abs)))
    (habsx : standardTable.lookup absx = some fun w => mk (.mem (.absx w.abs)))
    (habsy : standardTable.lookup absy = some fun w => mk (.mem (.absy w.abs)))
    (hindx : standardTable.lookup indx = some fun w => mk (.mem (.indx w.b1)))
    (hindy : standardTable.lookup indy = some fun w => mk (.mem (.indy w.b1))) :
    aluEncoding mk imm zp zpx abs absx absy indx indy :=
  ⟨decodesTo_of_lookup himm, decodesTo_of_lookup hzp, decodesTo_of_lookup hzpx, decodesTo_of_lookup habs,
    decodesTo_of_lookup habsx, decodesTo_of_lookup habsy, decodesTo_of_lookup hindx, decodesTo_of_lookup hindy⟩

theorem modifyEncoding_of_lookup {mk : MemMode → Instr} {zp zpx abs absx : Byte}
    (hzp : standardTable.lookup zp = some fun w => mk (.zp w.b1))
    (hzpx : standardTable.lookup zpx = some fun w => mk (.zpx w.b1))
    (habs : standardTable.lookup abs = some fun w => mk (.abs w.abs))
    (habsx : standardTable.lookup absx = some fun w => mk (.absx w.abs)) : modifyEncoding mk zp zpx abs absx :=
  ⟨decodesTo_of_lookup hzp, decodesTo_of_lookup hzpx, decodesTo_of_lookup habs, decodesTo_of_lookup habsx⟩

/-! ## What an update of the state writes -/

/-- `SetNZ8` as the statements write it (R195). -/
theorem Flags.setNZ_byte (f : Flags) (v : Byte) : f.setNZ v = withNZ f v := Flags.setNZ_toNat f v

/-- An instruction that updates PC, a view and the flags writes that view and keeps the rest. -/
theorem writesView_of_exec {i : Instr} {s : State} {w n len : Nat} {v : BitVec w} {f : Flags}
    (hw : w = 8 ∨ w = 16 ∨ w = 32) (hn : n < 256 / w)
    (h : exec i s = .next { s with
      pc := s.pc + BitVec.ofNat 16 len, gpr := (s.setView n v).gpr, flags := f }) : writesView w n v f len i s :=
  ⟨_, h, s.view_setView_same n v hw, rfl, rfl, rfl, fun _ hk hne => s.view8_setView_other v hw hn hk hne,
    fun _ _ => rfl, ⟨rfl, rfl, rfl⟩, ⟨rfl, rfl⟩, rfl, rfl, rfl, rfl⟩

/-- An instruction that updates PC, a byte of memory and the flags writes that byte and keeps the rest. -/
theorem writesMem_of_exec {i : Instr} {s : State} {g v : Byte} {o : Half} {len : Nat} {f : Flags}
    (h : exec i s = .next { s with
      pc := s.pc + BitVec.ofNat 16 len, mem := s.mem.write (addr g o) v, flags := f }) : writesMem g o v f len i s :=
  ⟨_, h, fun hmem => State.readByte_writeByte_same hmem g o v, rfl, rfl, rfl, rfl, sameMemBut_writeByte s g o v,
    ⟨rfl, rfl, rfl⟩, ⟨rfl, rfl⟩, rfl, rfl, rfl, rfl⟩

/-! ## Loads (R200 to R202) -/

theorem loadRule_of_exec {mk : Operand → Instr} {n : Nat} (hn : n < 32)
    (h : ∀ s o, exec (mk o) s = .next (s.load n o)) : loadRule mk n := by
  intro s o
  rw [← Flags.setNZ_byte]
  exact writesView_of_exec (.inl rfl) hn ((h s o).trans (congrArg _ (s.load_eq n o)))

/-- Settles O28: the encodings by their rows, the effects by one rule for the three registers. -/
theorem loadsWriteTheirRegister : Obligations.LoadsWriteTheirRegister :=
  ⟨aluEncoding_of_lookup rfl rfl rfl rfl rfl rfl rfl rfl,
    decodesTo_of_lookup rfl, decodesTo_of_lookup rfl, decodesTo_of_lookup rfl, decodesTo_of_lookup rfl,
    decodesTo_of_lookup rfl, decodesTo_of_lookup rfl, modifyEncoding_of_lookup rfl rfl rfl rfl,
    loadRule_of_exec (by decide) fun _ _ => rfl, loadRule_of_exec (by decide) fun _ _ => rfl,
    loadRule_of_exec (by decide) fun _ _ => rfl⟩

/-! ## Stores (R210 to R213) -/

theorem writesMem_of_store {i : Instr} {s : State} {m : MemMode} {v : Byte} (h : exec i s = .next (s.store m v)) :
    writesMem s.ds (s.ea m) v s.flags (1 + memLength m) i s :=
  writesMem_of_exec (h.trans (congrArg _ (s.store_eq m v)))

/-- Settles O29: the encodings by their rows, the effects by the rule of a store. -/
theorem storesWriteOneByte : Obligations.StoresWriteOneByte :=
  ⟨modifyEncoding_of_lookup rfl rfl rfl rfl,
    decodesTo_of_lookup rfl, decodesTo_of_lookup rfl, decodesTo_of_lookup rfl, decodesTo_of_lookup rfl,
    decodesTo_of_lookup rfl, decodesTo_of_lookup rfl, decodesTo_of_lookup rfl, decodesTo_of_lookup rfl,
    decodesTo_of_lookup rfl,
    fun _ _ => writesMem_of_store rfl, fun _ _ => writesMem_of_store rfl, fun _ _ => writesMem_of_store rfl⟩

/-- STZ is a store of 0 behind the 65C02 gate (R213, R134). -/
theorem exec_stz (m : MemMode) (s : State) :
    exec (.stz m) s = s.gate65c02 (opcodeByte (.stz m)) (.next (s.store m 0)) := rfl

theorem opcodeByte_of_opcode? {i : Instr} {op : Byte} (h : i.opcode? = some op) : opcodeByte i = op :=
  congrArg (·.getD 0) h

/-- Settles O30: the open gate lets the store through, the closed one raises the exception with the opcode's byte. -/
theorem stzStoresZeroBehindItsGate : Obligations.StzStoresZeroBehindItsGate := by
  refine ⟨modifyEncoding_of_lookup rfl rfl rfl rfl, fun s m hopen => ?_, fun s m op hclosed hop => ?_⟩
  · exact writesMem_of_store ((exec_stz m s).trans (gate65c02_open hopen _ _))
  · have hexec := (exec_stz m s).trans (gate65c02_closed hclosed _ _)
    rw [opcodeByte_of_opcode? hop] at hexec
    exact ⟨_, hexec, s.raiseIllegal_takes .opcode [op]⟩

/-! ## Transfers (R220 to R226) -/

theorem transferRule_of_exec {i : Instr} {n : Nat} {v : State → Byte} (hn : n < 32)
    (h : ∀ s, exec i s = .next (s.transfer n (v s))) : transferRule i n v := by
  intro s
  rw [← Flags.setNZ_byte]
  exact writesView_of_exec (.inl rfl) hn ((h s).trans (congrArg _ (s.transfer_eq n (v s))))

/-- Settles O31: the encodings by their rows, the effects by one rule for the four transfers. -/
theorem transfersCopyAndSetNZ : Obligations.TransfersCopyAndSetNZ :=
  ⟨decodesTo_of_lookup rfl, decodesTo_of_lookup rfl, decodesTo_of_lookup rfl, decodesTo_of_lookup rfl,
    transferRule_of_exec (by decide) fun _ => rfl, transferRule_of_exec (by decide) fun _ => rfl,
    transferRule_of_exec (by decide) fun _ => rfl, transferRule_of_exec (by decide) fun _ => rfl⟩

/-- TXS updates PC and SP alone; the parameter TXS_SP_HIGH makes SP[15:8] (R226). -/
theorem exec_txs (s : State) :
    exec .txs s = .next { s with pc := s.pc + 1, sp := half (txsHigh s.params.txsSpHigh (hi8 s.sp)) s.x } := rfl

/-- Settles O32: TSX is a transfer; the high byte TXS leaves is what each value of TXS_SP_HIGH (D14) makes of it. -/
theorem stackPointerTransfers : Obligations.StackPointerTransfers := by
  refine ⟨decodesTo_of_lookup rfl, decodesTo_of_lookup rfl, transferRule_of_exec (by decide) fun _ => rfl, fun s => ?_⟩
  have hhigh {p : TxsSpHigh} (hp : s.params.txsSpHigh = p) :
      hi8 (half (txsHigh s.params.txsSpHigh (hi8 s.sp)) s.x) = txsHigh p (hi8 s.sp) := by
    rw [hi8_half, hp]
  exact ⟨_, exec_txs s, lo8_half _ _, hhigh, hhigh, hhigh, rfl, rfl, rfl, fun _ _ => rfl, ⟨rfl, rfl, rfl⟩, ⟨rfl, rfl⟩,
    rfl, rfl, rfl, rfl⟩

end Sys2Proof.Machine
end

section
/-! PROOF. Arithmetic, logic, shifts and rotates (R235 to R263): what each computes as a statement about numbers, then
each instruction as one update of the state whose shape its statement reads off. -/

namespace Sys2Proof.Machine

open Sys2Proof.Claims

/-! ## The flag primitive (R235) -/

/-- Settles O25: N is the top bit of the narrowed result, Z says that the narrowed result is 0. -/
theorem setFlagsPrimitive : Obligations.SetFlagsPrimitive := by
  intro f sel w result baseline
  have hzero : (BitVec.ofNat w.bits result = 0) ↔ result % 2 ^ w.bits = 0 := by
    rw [← BitVec.toNat_inj, BitVec.toNat_ofNat, BitVec.ofNat_eq_ofNat, BitVec.toNat_ofNat, Nat.zero_mod]
  simp only [Flags.setFlags, hzero, BitVec.msb_eq_decide, BitVec.toNat_ofNat]

/-! ## ADC and SBC (R236, R240 to R242) -/

/-- An instruction that gives A and the flags an arithmetic result; V becomes 0 (R236). -/
theorem writesView_of_arith {i : Instr} {s : State} {o : Operand} {q r : ArithResult}
    (h : exec i s = .next (s.arith o q)) (hq : q = r) :
    writesView 8 1 r.value { s.flags with c := r.c, z := r.z, n := r.n, v := false } (1 + operandLength o) i s := by
  subst hq
  exact writesView_of_exec (.inl rfl) (by decide) (h.trans (congrArg _ (s.arith_eq o q)))

section

variable {f : Flags} (a m : Byte)

theorem adcResult_of_binary (hd : f.d = false) : adcResult f a m = adcBinary a m f.c := if_neg (by simp [hd])

theorem adcResult_of_decimal (hd : f.d = true) : adcResult f a m = Config.decimalArith .adc a m f.c := if_pos hd

theorem sbcResult_of_binary (hd : f.d = false) : sbcResult f a m = sbcBinary a m f.c := if_neg (by simp [hd])

theorem sbcResult_of_decimal (hd : f.d = true) : sbcResult f a m = Config.decimalArith .sbc a m f.c := if_pos hd

end

/-- Settles O33: D chooses between the binary sum and DECIMAL_ARITH. -/
theorem adcAddsWithCarry : Obligations.AdcAddsWithCarry :=
  ⟨aluEncoding_of_lookup rfl rfl rfl rfl rfl rfl rfl rfl,
    fun _ _ hd => writesView_of_arith rfl ((adcResult_of_binary _ _ hd).trans (adcBinary_toNat _ _ _)),
    fun _ _ hd => writesView_of_arith rfl (adcResult_of_decimal _ _ hd)⟩

/-- Settles O34: D chooses between the binary difference and DECIMAL_ARITH. -/
theorem sbcSubtractsWithBorrow : Obligations.SbcSubtractsWithBorrow :=
  ⟨aluEncoding_of_lookup rfl rfl rfl rfl rfl rfl rfl rfl,
    fun _ _ hd => writesView_of_arith rfl ((sbcResult_of_binary _ _ hd).trans (sbcBinary_toNat _ _ _)),
    fun _ _ hd => writesView_of_arith rfl (sbcResult_of_decimal _ _ hd)⟩

/-! ## AND, EOR and ORA (R243 to R245) -/

theorem logicRule_of_exec {mk : Operand → Instr} {f : Byte → Byte → Byte}
    (h : ∀ s o, exec (mk o) s = .next (s.logicA o (f s.a (s.readOp o)))) : logicRule mk f := by
  intro s o
  rw [← Flags.setNZ_byte]
  exact writesView_of_exec (.inl rfl) (by decide) ((h s o).trans (congrArg _ (s.logicA_eq o _)))

/-- Settles O35: the encodings by their rows, the effects by one rule for the three operations. -/
theorem logicWritesTheAccumulator : Obligations.LogicWritesTheAccumulator :=
  ⟨aluEncoding_of_lookup rfl rfl rfl rfl rfl rfl rfl rfl, aluEncoding_of_lookup rfl rfl rfl rfl rfl rfl rfl rfl,
    aluEncoding_of_lookup rfl rfl rfl rfl rfl rfl rfl rfl,
    logicRule_of_exec fun _ _ => rfl, logicRule_of_exec fun _ _ => rfl, logicRule_of_exec fun _ _ => rfl⟩

/-! ## BIT and the compares (R246 to R249) -/

/-- An instruction that updates PC and the flags keeps the rest. -/
theorem writesFlags_of_exec {i : Instr} {s : State} {len : Nat} {f : Flags}
    (h : exec i s = .next { s with pc := s.pc + BitVec.ofNat 16 len, flags := f }) : writesFlags f len i s :=
  ⟨_, h, rfl, rfl, rfl, rfl, fun _ _ => rfl, ⟨rfl, rfl, rfl⟩, ⟨rfl, rfl⟩, rfl, rfl, rfl, rfl⟩

theorem byte_bit7 (b : Byte) : b.getLsbD 7 = decide (128 ≤ b.toNat) := BitVec.msb_eq_decide b

theorem byte_bit6 (b : Byte) : b.getLsbD 6 = decide (64 ≤ b.toNat % 128) := by
  rw [BitVec.getLsbD, Nat.testBit_eq_decide_div_mod_eq, decide_eq_decide]
  omega

theorem byte_bit0 (b : Byte) : b.getLsbD 0 = decide (b.toNat % 2 = 1) := by
  rw [BitVec.getLsbD, Nat.testBit_zero]

/-- BIT (R246, D21). -/
theorem Flags.setBit_toNat (f : Flags) (a m : Byte) :
    f.setBit a m =
      { f with
        z := decide ((a &&& m).toNat = 0)
        n := decide (128 ≤ m.toNat)
        v := decide (64 ≤ m.toNat % 128) } := by
  have hzero : a &&& m = 0 ↔ (a &&& m).toNat = 0 := BitVec.toNat_inj.symm
  simp only [Flags.setBit, hzero, byte_bit7, byte_bit6]

theorem exec_bit (m : MemMode) (s : State) :
    exec (.bit m) s = .next { s with
      pc := s.pc + BitVec.ofNat 16 (1 + memLength m), flags := s.flags.setBit s.a (s.readMem m) } := rfl

/-- Settles O36: BIT updates PC and the flags alone. -/
theorem bitTestsWithoutWriting : Obligations.BitTestsWithoutWriting := by
  refine ⟨decodesTo_of_lookup rfl, decodesTo_of_lookup rfl, fun s m => ?_⟩
  rw [← Flags.setBit_toNat]
  exact writesFlags_of_exec (exec_bit m s)

theorem compareRule_of_exec {mk : Operand → Instr} {n : Nat}
    (h : ∀ s o, exec (mk o) s = .next (s.compare (s.view 8 n) o)) : compareRule mk n := by
  intro s o
  rw [← Flags.setCompare_toNat]
  exact writesFlags_of_exec ((h s o).trans (congrArg _ (s.compare_eq _ o)))

/-- Settles O37: the encodings by their rows, the effects by one rule for the three registers. -/
theorem comparesWriteOnlyFlags : Obligations.ComparesWriteOnlyFlags :=
  ⟨aluEncoding_of_lookup rfl rfl rfl rfl rfl rfl rfl rfl,
    decodesTo_of_lookup rfl, decodesTo_of_lookup rfl, decodesTo_of_lookup rfl, decodesTo_of_lookup rfl,
    decodesTo_of_lookup rfl, decodesTo_of_lookup rfl,
    compareRule_of_exec fun _ _ => rfl, compareRule_of_exec fun _ _ => rfl, compareRule_of_exec fun _ _ => rfl⟩

/-! ## Counting memory and the index registers (R250 to R255) -/

theorem byte_succ (b : Byte) : b + 1 = BitVec.ofNat 8 (b.toNat + 1) := BitVec.eq_of_toNat_eq (byte_succ_toNat b)

theorem byte_pred (b : Byte) : b - 1 = BitVec.ofNat 8 (b.toNat + 255) := BitVec.eq_of_toNat_eq (byte_pred_toNat b)

theorem modifyRule_of_exec {mk : MemMode → Instr} {f : Nat → Nat} {g : Byte → Byte}
    (hg : ∀ b, g b = BitVec.ofNat 8 (f b.toNat))
    (h : ∀ s m, exec (mk m) s = .next (s.modify m (g (s.readMem m)))) : modifyRule mk f := by
  intro s m
  rw [← hg, ← Flags.setNZ_byte]
  exact writesMem_of_exec ((h s m).trans (congrArg _ (s.modify_eq m _)))

/-- Settles O38: the encodings by their rows, the effects by the rule of a read-modify-write. -/
theorem incDecModifyMemory : Obligations.IncDecModifyMemory :=
  ⟨modifyEncoding_of_lookup rfl rfl rfl rfl, modifyEncoding_of_lookup rfl rfl rfl rfl,
    modifyRule_of_exec byte_succ fun _ _ => rfl, modifyRule_of_exec byte_pred fun _ _ => rfl⟩

theorem exec_inx (s : State) : exec .inx s = .next (s.transfer 3 (s.x + 1)) := rfl

theorem exec_iny (s : State) : exec .iny s = .next (s.transfer 5 (s.y + 1)) := rfl

theorem exec_dex (s : State) : exec .dex s = .next (s.transfer 3 (s.x - 1)) := rfl

theorem exec_dey (s : State) : exec .dey s = .next (s.transfer 5 (s.y - 1)) := rfl

/-- Settles O39: the encodings by their rows, the effects by the rule of a transfer. -/
theorem indexRegistersCount : Obligations.IndexRegistersCount :=
  ⟨decodesTo_of_lookup rfl, decodesTo_of_lookup rfl, decodesTo_of_lookup rfl, decodesTo_of_lookup rfl,
    transferRule_of_exec (by decide) fun s => by rw [exec_inx, byte_succ],
    transferRule_of_exec (by decide) fun s => by rw [exec_iny, byte_succ],
    transferRule_of_exec (by decide) fun s => by rw [exec_dex, byte_pred],
    transferRule_of_exec (by decide) fun s => by rw [exec_dey, byte_pred]⟩

/-! ## Shifts and rotates (R259 to R263) -/

/-- The value and the carry out of a shift or rotate as numbers: `val` of the byte and the old carry, mod 256, and
`carry` of the byte. -/
def ShiftsBy (f : Byte → Bool → ShiftResult) (val : Nat → Nat → Nat) (carry : Nat → Bool) : Prop :=
  ∀ v c, f v c = { value := BitVec.ofNat 8 (val v.toNat c.toNat), c := carry v.toNat }

theorem shiftLeft_one_toNat (v : Byte) : (v <<< 1).toNat = 2 ^ 1 * (v.toNat % 128) := by
  rw [BitVec.toNat_shiftLeft, Nat.shiftLeft_eq]
  omega

theorem shiftRight_one_toNat (v : Byte) : (v >>> 1).toNat = v.toNat / 2 := by
  rw [BitVec.toNat_ushiftRight, Nat.shiftRight_eq_div_pow]

/-- A carry as a byte is 0 or 1. -/
theorem carry_toNat (c : Bool) : ((BitVec.ofBool c).setWidth 8 : Byte).toNat = c.toNat := by
  cases c <;> rfl

/-- A carry moved to bit 7. -/
theorem carry_shiftLeft_toNat (c : Bool) : ((BitVec.ofBool c).setWidth 8 <<< 7 : Byte).toNat = 2 ^ 7 * c.toNat := by
  cases c <;> rfl

theorem aslResult_shiftsBy : ShiftsBy aslResult (fun v _ => 2 * v) (fun v => decide (128 ≤ v)) := by
  intro v c
  have hvalue : v <<< 1 = BitVec.ofNat 8 (2 * v.toNat) := by
    apply BitVec.eq_of_toNat_eq
    rw [shiftLeft_one_toNat, BitVec.toNat_ofNat]
    omega
  rw [aslResult, hvalue, byte_bit7]

theorem lsrResult_shiftsBy : ShiftsBy lsrResult (fun v _ => v / 2) (fun v => decide (v % 2 = 1)) := by
  intro v c
  have hvalue : v >>> 1 = BitVec.ofNat 8 (v.toNat / 2) := by
    apply BitVec.eq_of_toNat_eq
    rw [shiftRight_one_toNat, BitVec.toNat_ofNat]
    omega
  rw [lsrResult, hvalue, byte_bit0]

/-- ROL: the carry fills the bit that the shift leaves empty, so that the OR is a sum. -/
theorem rolResult_shiftsBy : ShiftsBy rolResult (fun v c => 2 * v + c) (fun v => decide (128 ≤ v)) := by
  intro v c
  have hc := c.toNat_lt
  have hvalue : (v <<< 1) ||| (BitVec.ofBool c).setWidth 8 = BitVec.ofNat 8 (2 * v.toNat + c.toNat) := by
    apply BitVec.eq_of_toNat_eq
    rw [BitVec.toNat_or, shiftLeft_one_toNat, carry_toNat, ← Nat.two_pow_add_eq_or_of_lt hc, BitVec.toNat_ofNat]
    omega
  rw [rolResult, hvalue, byte_bit7]

/-- ROR: the carry fills the bit that the shift leaves empty, so that the OR is a sum. -/
theorem rorResult_shiftsBy : ShiftsBy rorResult (fun v c => 128 * c + v / 2) (fun v => decide (v % 2 = 1)) := by
  intro v c
  have hc := c.toNat_lt
  have hhalf : v.toNat / 2 < 2 ^ 7 := by omega
  have hvalue : ((BitVec.ofBool c).setWidth 8 <<< 7) ||| (v >>> 1) =
      BitVec.ofNat 8 (128 * c.toNat + v.toNat / 2) := by
    apply BitVec.eq_of_toNat_eq
    rw [BitVec.toNat_or, carry_shiftLeft_toNat, shiftRight_one_toNat, ← Nat.two_pow_add_eq_or_of_lt hhalf,
      BitVec.toNat_ofNat]
    omega
  rw [rorResult, hvalue, byte_bit0]

/-- The flags after a shift or rotate as the statements write them. -/
theorem Flags.setShift_byte (f : Flags) (r : ShiftResult) : f.setShift r = withNZ { f with c := r.c } r.value :=
  Flags.setNZ_byte _ r.value

/-- A shift or rotate of A writes A, one of memory the byte it read; both the same value and flags. -/
theorem shiftRule_of_exec {mk : ShiftTarget → Instr} {f : Byte → Bool → ShiftResult} {val : Nat → Nat → Nat}
    {carry : Nat → Bool} (hf : ShiftsBy f val carry) (h : ∀ s t, exec (mk t) s = .next (s.shift t f)) :
    shiftRule mk val carry := by
  refine ⟨fun s => ?_, fun s m => ?_⟩
  · have hexec := (h s .acc).trans (congrArg _ (s.shift_acc_eq f))
    rw [Flags.setShift_byte, hf] at hexec
    exact writesView_of_exec (.inl rfl) (by decide) hexec
  · have hexec := (h s (.mem m)).trans (congrArg _ (s.shift_mem_eq m f))
    rw [Flags.setShift_byte, hf] at hexec
    exact writesMem_of_exec hexec

/-- Settles O40: the encodings by their rows, the effects by one rule for the four operations. -/
theorem shiftsAndRotatesMoveOneBit : Obligations.ShiftsAndRotatesMoveOneBit :=
  ⟨decodesTo_of_lookup rfl, modifyEncoding_of_lookup rfl rfl rfl rfl,
    decodesTo_of_lookup rfl, modifyEncoding_of_lookup rfl rfl rfl rfl,
    shiftRule_of_exec aslResult_shiftsBy fun _ _ => rfl, shiftRule_of_exec lsrResult_shiftsBy fun _ _ => rfl,
    decodesTo_of_lookup rfl, modifyEncoding_of_lookup rfl rfl rfl rfl,
    decodesTo_of_lookup rfl, modifyEncoding_of_lookup rfl rfl rfl rfl,
    shiftRule_of_exec rolResult_shiftsBy fun _ _ => rfl, shiftRule_of_exec rorResult_shiftsBy fun _ _ => rfl⟩

end Sys2Proof.Machine
end

section
/-! PROOF. Branches, jumps, calls, returns and the trap (R285 to R306, R456, R457): what each leaves in PC and on the
stack, and that a return undoes the call or the trap before it. -/

namespace Sys2Proof.Machine

open Sys2Proof.Claims

/-- An instruction that updates PC keeps the rest. -/
theorem writesPc_of_exec {i : Instr} {s : State} {pc : Half} (h : exec i s = .next (s.setPc pc)) : writesPc pc i s :=
  ⟨_, h, rfl, rfl, rfl, rfl, fun _ _ => rfl, ⟨rfl, rfl, rfl⟩, ⟨rfl, rfl⟩, rfl, rfl, rfl, rfl⟩

/-! ## Branches (R285, R290 to R298) -/

theorem ofInt_toNat_add (o : Half) (z : Int) : BitVec.ofInt 16 (o.toNat + z) = o + BitVec.ofInt 16 z := by
  rw [BitVec.ofInt_add, BitVec.ofInt_natCast, BitVec.ofNat_toNat, BitVec.setWidth_eq]

theorem State.branchTarget_eq_ofInt (s : State) (rr : Byte) :
    s.branchTarget rr = BitVec.ofInt 16 ((s.pc.toNat : Int) + 2 + rr.toInt) := by
  calc s.branchTarget rr
    _ = s.pc + BitVec.ofInt 16 2 + BitVec.ofInt 16 rr.toInt := by
      rw [State.branchTarget, addSigned_eq_ofInt, ofInt_toNat_add]
      rfl
    _ = BitVec.ofInt 16 ((s.pc.toNat : Int) + 2 + rr.toInt) := by
      rw [Int.add_assoc, ofInt_toNat_add, BitVec.ofInt_add, BitVec.add_assoc]

theorem State.branchNext_eq_ofInt (s : State) : s.branchNext = BitVec.ofInt 16 ((s.pc.toNat : Int) + 2) :=
  (ofInt_toNat_add s.pc 2).symm

/-- The branch mechanism writes PC alone; a branch not taken is one by 0 from the next instruction (R285). -/
theorem State.branch_eq_setPc (s : State) (taken : Bool) (rr : Byte) :
    s.branch taken rr =
      s.setPc (BitVec.ofInt 16 ((s.pc.toNat : Int) + 2 + (if taken then rr.toInt else 0))) := by
  cases taken with
  | true => exact congrArg s.setPc (s.branchTarget_eq_ofInt rr)
  | false =>
    rw [if_neg Bool.false_ne_true, Int.add_zero, ← s.branchNext_eq_ofInt]
    rfl

theorem branchRule_of_exec {mk : Byte → Instr} {op : Byte} {cond : Flags → Bool}
    (hop : standardTable.lookup op = some fun w => mk w.b1)
    (h : ∀ s rr, exec (mk rr) s = .next (s.branch (cond s.flags) rr)) : branchRule mk op cond :=
  ⟨decodesTo_of_lookup hop, fun s rr => writesPc_of_exec ((h s rr).trans (congrArg _ (s.branch_eq_setPc _ rr)))⟩

/-- Settles O41: each branch is the branch mechanism under its predicate. -/
theorem branchesFollowTheirFlag : Obligations.BranchesFollowTheirFlag :=
  ⟨branchRule_of_exec rfl fun _ _ => rfl, branchRule_of_exec rfl fun _ _ => rfl,
    branchRule_of_exec rfl fun _ _ => rfl, branchRule_of_exec rfl fun _ _ => rfl,
    branchRule_of_exec rfl fun _ _ => rfl, branchRule_of_exec rfl fun _ _ => rfl,
    branchRule_of_exec rfl fun _ _ => rfl, branchRule_of_exec rfl fun _ _ => rfl⟩

/-- BRA is a branch always taken, behind the 65C02 gate (R298, R134). -/
theorem exec_bra (rr : Byte) (s : State) : exec (.bra rr) s = s.gate65c02 0x80 (.next (s.branch true rr)) := rfl

/-- Settles O42: the open gate lets the branch through, the closed one raises the exception. -/
theorem braBranchesBehindItsGate : Obligations.BraBranchesBehindItsGate := by
  refine ⟨decodesTo_of_lookup rfl, fun s rr hopen => ?_, fun s rr hclosed => ?_⟩
  · have hexec := (exec_bra rr s).trans (gate65c02_open hopen _ _)
    exact writesPc_of_exec (hexec.trans (congrArg _ (s.branch_eq_setPc true rr)))
  · exact ⟨_, (exec_bra rr s).trans (gate65c02_closed hclosed _ _), s.raiseIllegal_takes .opcode [0x80]⟩

/-! ## JMP absolute and NOP (R300, R306) -/

/-- Settles O43: both update PC alone. -/
theorem jumpAbsoluteAndNop : Obligations.JumpAbsoluteAndNop :=
  ⟨decodesTo_of_lookup rfl, decodesTo_of_lookup rfl, fun _ _ => writesPc_of_exec rfl, fun _ => writesPc_of_exec rfl⟩

/-! ## Counting in the stack's page (R84) -/

theorem spPushed_eq_stackDown (sp : Half) : spPushed sp = stackDown sp 1 := rfl

theorem stackDown_stackDown (sp : Half) (j k : Nat) : stackDown (stackDown sp j) k = stackDown sp (j + k) := by
  simp only [stackDown, hi8_half, lo8_half, BitVec.ofNat_add, sub_add_eq_sub_sub]

theorem stackUp_stackUp (sp : Half) (j k : Nat) : stackUp (stackUp sp j) k = stackUp sp (j + k) := by
  simp only [stackUp, hi8_half, lo8_half, BitVec.ofNat_add, BitVec.add_assoc]

/-- As many pops as pushes lead back to SP. -/
theorem stackUp_stackDown (sp : Half) (k : Nat) : stackUp (stackDown sp k) k = sp := by
  rw [stackUp, stackDown, hi8_half, lo8_half, BitVec.sub_add_cancel, half_hi8_lo8]

/-- Pops take back the last of the pushes before them. -/
theorem stackUp_stackDown_add (sp : Half) (j k : Nat) : stackUp (stackDown sp (j + k)) k = stackDown sp j := by
  rw [← stackDown_stackDown, stackUp_stackDown]

theorem spPushed_spPushed (sp : Half) : spPushed (spPushed sp) = stackDown sp 2 := stackDown_stackDown sp 1 1

theorem spPushed_spPushed_spPushed (sp : Half) : spPushed (spPushed (spPushed sp)) = stackDown sp 3 :=
  (congrArg spPushed (spPushed_spPushed sp)).trans (stackDown_stackDown sp 2 1)

theorem spPopped_spPopped (sp : Half) : spPopped (spPopped sp) = stackUp sp 2 := stackUp_stackUp sp 1 1

theorem spPopped_spPopped_spPopped (sp : Half) : spPopped (spPopped (spPopped sp)) = stackUp sp 3 :=
  (congrArg spPopped (spPopped_spPopped sp)).trans (stackUp_stackUp sp 2 1)

/-- The byte the first pop returns. -/
theorem State.top_eq (s : State) : s.top = s.readByte s.ss (stackUp s.sp 1) := rfl

/-- The byte the second pop returns. -/
theorem State.top_popped (s : State) : s.popped.top = s.readByte s.ss (stackUp s.sp 2) :=
  congrArg (s.readByte s.ss) (spPopped_spPopped s.sp)

/-- The byte the third pop returns. -/
theorem State.top_popped_popped (s : State) : s.popped.popped.top = s.readByte s.ss (stackUp s.sp 3) :=
  congrArg (s.readByte s.ss) (spPopped_spPopped_spPopped s.sp)

/-! ## JSR and RTS (R302, R303) -/

theorem exec_jsr (a : Half) (s : State) :
    exec (.jsr a) s = .next (((s.push8 (hi8 (s.pc + 2))).push8 (lo8 (s.pc + 2))).setPc a) := rfl

/-- Settles O45: a jump after two pushes (D13). -/
theorem jsrPushesItsReturnAddress : Obligations.JsrPushesItsReturnAddress :=
  ⟨decodesTo_of_lookup rfl, fun s a => ⟨_, exec_jsr a s, rfl, spPushed_spPushed s.sp,
    fun hmem => State.readByte_push8_two hmem _ _, fun _ _ hother => State.readByte_push8_two_other s _ _ hother,
    rfl, rfl, ⟨rfl, rfl, rfl⟩, ⟨rfl, rfl⟩, rfl, rfl, rfl, rfl⟩⟩

theorem exec_rts (s : State) : exec .rts s = .next (s.popped.popped.setPc (half s.popped.top s.top + 1)) := rfl

/-- Settles O46: two pops, and the offset they give plus 1 (D13). -/
theorem rtsPopsItsReturnAddress : Obligations.RtsPopsItsReturnAddress := by
  refine ⟨decodesTo_of_lookup rfl, fun s => ⟨_, exec_rts s, ?_, spPopped_spPopped s.sp, rfl, rfl, fun _ _ => rfl,
    ⟨rfl, rfl, rfl⟩, ⟨rfl, rfl⟩, rfl, rfl, rfl, rfl⟩⟩
  rw [State.setPc_pc, State.top_popped, State.top_eq]

/-- Settles O47: RTS pops from where JSR pushed, and adds the 1 that JSR's pushed offset lacks. -/
theorem returnUndoesCall : Obligations.ReturnUndoesCall := by
  intro s t u a hmem hcall hreturn
  obtain ⟨t', hcall', -, htsp, hpushed, -, -, -, ⟨-, -, htss⟩, -⟩ := jsrPushesItsReturnAddress.2 s a
  obtain rfl : t = t' := Host.Outcome.next.inj (hcall.symm.trans hcall')
  obtain ⟨u', hreturn', hupc, husp, -⟩ := rtsPopsItsReturnAddress.2 t
  obtain rfl : u = u' := Host.Outcome.next.inj (hreturn.symm.trans hreturn')
  obtain ⟨hhigh, hlow⟩ := hpushed hmem
  constructor
  · calc u.pc
      _ = half (t.readByte s.ss s.sp) (t.readByte s.ss (stackDown s.sp 1)) + 1 := by
        rw [hupc, htss, htsp, stackUp_stackDown, stackUp_stackDown_add s.sp 1 1]
      _ = s.pc + 2 + 1 := by rw [hhigh, hlow, half_hi8_lo8]
      _ = s.pc + 3 := BitVec.add_assoc s.pc 2 1
  · rw [husp, htsp, stackUp_stackDown]

/-! ## BRK and RTI (R304, R305, R456, R457) -/

/-- Settles O48: the stack by the law of three pushes (D13), the rest by the one update the trap is. -/
theorem breakTakesTheTrap : Obligations.BreakTakesTheTrap := by
  refine ⟨decodesTo_of_lookup rfl, fun s => ⟨s.enterBreak, rfl, ?_⟩⟩
  simp only [State.readByte_enterBreak, ← spPushed_eq_stackDown, ← spPushed_spPushed, ← spPushed_spPushed_spPushed]
  exact ⟨fun hmem => State.readByte_push8_three hmem _ _ _,
    fun _ _ hother => State.readByte_push8_three_other s _ _ _ hother,
    rfl, rfl, rfl, rfl, rfl, rfl, rfl, rfl, rfl, rfl, rfl, rfl, rfl⟩

/-- Settles O49: three pops, the flags first (D13). -/
theorem rtiPopsFlagsAndPc : Obligations.RtiPopsFlagsAndPc := by
  refine ⟨decodesTo_of_lookup rfl, fun s => ⟨s.returnFromBreak, rfl, ?_⟩⟩
  rw [← State.top_popped_popped, ← State.top_popped, ← State.top_eq, ← spPopped_spPopped_spPopped]
  exact ⟨rfl, rfl, rfl, rfl, fun _ _ => rfl, ⟨rfl, rfl, rfl⟩, ⟨rfl, rfl⟩, rfl, rfl, rfl, rfl⟩

/-- Settles O50: with SS 0 the trap's cleared SS is the one it pushed through, so that RTI pops what BRK pushed. -/
theorem returnUndoesBreak : Obligations.ReturnUndoesBreak := by
  intro s t u hmem hss hbreak hreturn
  obtain ⟨t', hbreak', hpushed, -, htsp, htps, htds, htss, -, -, -, -, htregs, -⟩ := breakTakesTheTrap.2 s
  obtain rfl : t = t' := Host.Outcome.next.inj (hbreak.symm.trans hbreak')
  obtain ⟨u', hreturn', huflags, hupc, husp, huregs, -, ⟨hups, huds, huss⟩, -⟩ := rtiPopsFlagsAndPc.2 t
  obtain rfl : u = u' := Host.Outcome.next.inj (hreturn.symm.trans hreturn')
  obtain ⟨hhigh, hlow, hflags⟩ := hpushed hmem
  rw [hss] at hhigh hlow hflags
  rw [htss, htsp] at huflags hupc
  rw [stackUp_stackDown_add s.sp 2 1, hflags, Flags.unpack_pack] at huflags
  rw [stackUp_stackDown, stackUp_stackDown_add s.sp 1 2, hhigh, hlow, half_hi8_lo8] at hupc
  rw [htsp, stackUp_stackDown] at husp
  exact ⟨hupc, huflags, husp, hups.trans htps, huds.trans htds, huss.trans htss, huregs.trans htregs⟩

end Sys2Proof.Machine
end

section
/-! PROOF. The stack and flag instructions (R330 to R346): a push is a byte store and a count down, a pop a count up
before the byte is used, and a flag instruction updates PC and the flags alone. -/

namespace Sys2Proof.Machine

open Sys2Proof.Claims

/-! ## Flags (R340 to R346) -/

theorem flagRule_of_exec {i : Instr} {op : Byte} {f : Flags → Flags}
    (hop : standardTable.lookup op = some fun _ => i) (h : ∀ s, exec i s = .next (s.flagOp (f s.flags))) :
    flagRule i op f :=
  ⟨decodesTo_of_lookup hop, fun s => writesFlags_of_exec ((h s).trans (congrArg _ (s.flagOp_eq (f s.flags))))⟩

/-- Settles O52: each instruction is the flag mechanism with its own flag. -/
theorem flagInstructionsWriteOneFlag : Obligations.FlagInstructionsWriteOneFlag :=
  ⟨flagRule_of_exec rfl fun _ => rfl, flagRule_of_exec rfl fun _ => rfl, flagRule_of_exec rfl fun _ => rfl,
    flagRule_of_exec rfl fun _ => rfl, flagRule_of_exec rfl fun _ => rfl, flagRule_of_exec rfl fun _ => rfl,
    flagRule_of_exec rfl fun _ => rfl⟩

/-! ## The stack (R330 to R333) -/

/-- The instruction runs and only pushes v and moves PC past its one byte. -/
def pushesByte (v : Byte) (i : Instr) (s : State) : Prop :=
  ∃ t, exec i s = .next t ∧ (s.mem.wf = true → t.readByte s.ss s.sp = v) ∧ sameMemBut s.ss s.sp 1 s t ∧
    t.sp = stackDown s.sp 1 ∧ t.pc = s.pc + 1 ∧ t.flags = s.flags ∧ sameRegs s t ∧ sameRest s t

/-- The byte is stored at SP before SP counts down (D13). -/
theorem pushesByte_of_exec {i : Instr} {s : State} {v : Byte} (h : exec i s = .next ((s.push8 v).advance 1)) :
    pushesByte v i s :=
  ⟨_, h, fun hmem => State.readByte_push8_same hmem v, sameMemBut_writeByte s s.ss s.sp v,
    spPushed_eq_stackDown s.sp, rfl, rfl, rfl, ⟨rfl, rfl, rfl⟩, ⟨rfl, rfl⟩, rfl, rfl, rfl, rfl⟩

theorem exec_pha (s : State) : exec .pha s = .next ((s.push8 s.a).advance 1) := rfl

/-- B is pushed as stored (D23). -/
theorem exec_php (s : State) : exec .php s = .next ((s.push8 s.flags.pack).advance 1) := rfl

/-- PLA is a transfer of the popped byte into A, after SP counts up (D13). -/
theorem exec_pla (s : State) : exec .pla s = .next (s.popped.transfer 1 s.top) := rfl

/-- PLP writes all seven flags from the popped byte, B included (D23). -/
theorem exec_plp (s : State) : exec .plp s = .next (s.popped.flagOp (Flags.unpack s.top)) := rfl

/-- The popped byte is in A and in N and Z; only A, N, Z, SP and PC are written. -/
theorem pla_popsIntoA (s : State) :
    ∃ t, exec .pla s = .next t ∧ t.a = s.top ∧ t.flags = withNZ s.flags s.top ∧ t.sp = stackUp s.sp 1 ∧
      t.pc = s.pc + 1 ∧ sameRegsBut 8 1 s t ∧ sameMem s t ∧ sameRest s t :=
  ⟨_, exec_pla s, (s.popped.advance 1).view_setView_same 1 s.top (.inl rfl), Flags.setNZ_byte s.flags s.top, rfl, rfl,
    fun _ hk hne => (s.popped.advance 1).view8_setView_other s.top (.inl rfl) (by decide) hk hne,
    fun _ _ => rfl, ⟨rfl, rfl, rfl⟩, ⟨rfl, rfl⟩, rfl, rfl, rfl, rfl⟩

/-- The popped byte is in the flags; only the flags, SP and PC are written. -/
theorem plp_popsIntoFlags (s : State) :
    ∃ t, exec .plp s = .next t ∧ t.flags = Flags.unpack s.top ∧ t.sp = stackUp s.sp 1 ∧ t.pc = s.pc + 1 ∧
      sameRegs s t ∧ sameMem s t ∧ sameRest s t :=
  ⟨_, exec_plp s, rfl, rfl, rfl, rfl, fun _ _ => rfl, ⟨rfl, rfl, rfl⟩, ⟨rfl, rfl⟩, rfl, rfl, rfl, rfl⟩

/-- Settles O51: the encodings by their rows, the pushes by one rule, each pop by where its byte goes. -/
theorem stackInstructionsMoveOneByte : Obligations.StackInstructionsMoveOneByte := by
  simp only [Obligations.StackInstructionsMoveOneByte, ← State.top_eq]
  exact ⟨decodesTo_of_lookup rfl, decodesTo_of_lookup rfl,
    fun s => pushesByte_of_exec (exec_pha s), pla_popsIntoA,
    decodesTo_of_lookup rfl, decodesTo_of_lookup rfl,
    fun s => pushesByte_of_exec (exec_php s), plp_popsIntoFlags⟩

end Sys2Proof.Machine
end

section
/-! PROOF. The rest of the register families behind an open gate: the sub-bytes without a register effect (R362, R375,
R452, R469) and MOVS (R375). Bits 7:6 of a TRX sub-byte are its reserved bit and its direction (R139), so the first
decides between a refusal and a selector, and the second only matters where the selector is a segment. -/

namespace Sys2Proof.Machine

open Sys2Proof.Claims

/-! ## The sub-decoders of XTOP1 and XTOP1_TRX (R137, R139) -/

theorem byte_bit7_eq_subTop (b : Byte) : b[7] = (subTop b)[1] := by
  simp [subTop]

theorem byte_bit6_eq_subTop (b : Byte) : b[6] = (subTop b)[0] := by
  simp [subTop]

theorem subLow_toNat (b : Byte) : (subLow b).toNat = b.toNat % 8 := by
  simp [subLow]

theorem segOf_number (g : SegReg) : segOf g.number = some g := by
  cases g <;> rfl

/-- The selectors 3 to 7 name no segment (R39). -/
theorem segOf_eq_none {g : BitVec 3} (h : 3 ≤ g.toNat) : segOf g = none := by
  revert g
  decide

theorem decodeXtop1_of_one {b : Byte} (h : subTop b = 1) : decodeXtop1 b = .segxB (b.extractLsb' 0 6) := by
  simp [decodeXtop1, h]

theorem decodeXtop1_of_bit7 {b : Byte} {top : BitVec 2} (htop : top ∈ [2#2, 3#2]) (h : subTop b = top) :
    decodeXtop1 b = .illegalXtop1 (b.extractLsb' 0 7) := by
  rcases List.mem_pair.mp htop with rfl | rfl <;> simp [decodeXtop1, h]

theorem decodeTrx_of_reserved {b : Byte} (h : (subTop b)[1] = true) : decodeTrx b = .refusedTrx (b.extractLsb' 0 7) :=
  if_pos ((BitVec.getLsbD_eq_getElem (by decide)).trans ((byte_bit7_eq_subTop b).trans h))

theorem decodeTrx_of_no_segment {b : Byte} (h : (subTop b)[1] = false) (hlow : 3 ≤ b.toNat % 8) :
    decodeTrx b = .illegalTrx (b.extractLsb' 3 4) (subLow b) := by
  have hseg : segOf (subLow b) = none := segOf_eq_none (by rwa [subLow_toNat])
  simp [decodeTrx, byte_bit7_eq_subTop, h, hseg]

theorem subLow_eq_number {b : Byte} {g : SegReg} (h : b.toNat % 8 = g.number.toNat) : subLow b = g.number :=
  BitVec.eq_of_toNat_eq ((subLow_toNat b).trans h)

theorem decodeTrx_to_segment {b : Byte} {g : SegReg} (h : subTop b = 0) (hlow : b.toNat % 8 = g.number.toNat) :
    decodeTrx b = .movsToSeg g (subMid b) := by
  simp [decodeTrx, byte_bit7_eq_subTop, byte_bit6_eq_subTop, h, subLow_eq_number hlow, segOf_number]

theorem decodeTrx_from_segment {b : Byte} {g : SegReg} (h : subTop b = 1) (hlow : b.toNat % 8 = g.number.toNat) :
    decodeTrx b = .movsFromSeg (subMid b) g := by
  simp [decodeTrx, byte_bit7_eq_subTop, byte_bit6_eq_subTop, h, subLow_eq_number hlow, segOf_number]

/-- A sub-byte is read as its family's sub-decoder reads it (R136). -/
theorem subByteDecodesTo_of_decodeExt {f : Family} {top : BitVec 2} {cond : Byte → Prop} {mk : Window → Instr}
    (h : ∀ w, subTop w.b1 = top → cond w.b1 → decodeExt f w = mk w) : subByteDecodesTo f top cond mk :=
  fun _ w he hw htop hcond => (decode_extension he hw).trans (congrArg Decoded.instr (h w htop hcond))

/-! ## No register effect (R362, R375, R452) -/

theorem exec_segxB (x : BitVec 6) (s : State) : exec (.segxB x) s = s.gate65x02 .xtop1 (.next (s.setPc (s.pc + 2))) :=
  rfl

theorem exec_illegalXtop1 (x : BitVec 7) (s : State) :
    exec (.illegalXtop1 x) s = s.gate65x02 .xtop1 (.next (s.illegalSubop .xtop1 (1#1 ++ x))) := rfl

theorem exec_illegalTrx (x : BitVec 4) (g : BitVec 3) (s : State) :
    exec (.illegalTrx x g) s = s.gate65x02 .xtop1Trx (.next (s.illegalSubop .xtop1Trx (0#1 ++ x ++ g))) := rfl

theorem exec_refusedTrx (x : BitVec 7) (s : State) :
    exec (.refusedTrx x) s = s.gate65x02 .xtop1Trx (.refused .trxReservedBit) := rfl

/-- The sub-byte of an unrecognised XTOP1 op is its bit 7 over the other seven. -/
theorem illegalXtop1_subByte (x : BitVec 7) : 1#1 ++ x = BitVec.ofNat 8 (128 + x.toNat) := by
  apply BitVec.eq_of_toNat_eq
  have hx := x.isLt
  rw [BitVec.toNat_append, ← Nat.shiftLeft_add_eq_or_of_lt hx, Nat.shiftLeft_eq]
  simp only [BitVec.toNat_ofNat]
  omega

/-- The sub-byte of a TRX without a segment is its selector under the direction and the register. -/
theorem illegalTrx_subByte (x : BitVec 4) (g : BitVec 3) : 0#1 ++ x ++ g = BitVec.ofNat 8 (8 * x.toNat + g.toNat) := by
  apply BitVec.eq_of_toNat_eq
  have hx := x.isLt
  have hg := g.isLt
  rw [BitVec.toNat_append, ← Nat.shiftLeft_add_eq_or_of_lt hg, BitVec.toNat_append, Nat.shiftLeft_eq]
  simp only [BitVec.toNat_ofNat, Nat.zero_mod, Nat.zero_shiftLeft, Nat.zero_or]
  omega

/-- An instruction that takes ILLEGAL_SUBOP behind an open gate (R453, R454). -/
theorem takesIllegal_of_exec {i : Instr} {s : State} {f : Family} {sub b : Byte} (hopen : s.config.allow65x02 = true)
    (h : exec i s = s.gate65x02 f (.next (s.illegalSubop f sub))) (hsub : sub = b) :
    ∃ t, exec i s = .next t ∧ takesIllegal .subop [s.params.ext.byte f, b] s t := by
  subst hsub
  exact ⟨_, h.trans (gate65x02_open hopen f _), s.raiseIllegal_takes .subop [s.params.ext.byte f, sub]⟩

/-- Settles O55: the sub-bytes by the two sub-decoders, each effect by what stands behind the gate. -/
theorem subBytesWithoutARegisterEffect : Obligations.SubBytesWithoutARegisterEffect := by
  refine ⟨?segx, fun top htop => ⟨?illegalXtop1, ?refusedTrx⟩, fun top htop => ?illegalTrx, fun s x hopen => ?runSegx,
    fun s x hopen => ?runXtop1, fun s x g hopen _ => ?runTrx, fun s x hopen => ?runRefused⟩
  case segx => exact subByteDecodesTo_of_decodeExt fun w h _ => decodeXtop1_of_one h
  case illegalXtop1 => exact subByteDecodesTo_of_decodeExt fun w h _ => decodeXtop1_of_bit7 htop h
  case refusedTrx =>
    have hbit : top[1] = true := by
      rcases List.mem_pair.mp htop with rfl | rfl <;> rfl
    exact subByteDecodesTo_of_decodeExt fun w h _ => decodeTrx_of_reserved (h ▸ hbit)
  case illegalTrx =>
    have hbit : top[1] = false := by
      rcases List.mem_pair.mp htop with rfl | rfl <;> rfl
    exact subByteDecodesTo_of_decodeExt fun w h hlow => decodeTrx_of_no_segment (h ▸ hbit) hlow
  case runSegx => exact writesPc_of_exec ((exec_segxB x s).trans (gate65x02_open hopen _ _))
  case runXtop1 => exact takesIllegal_of_exec hopen (exec_illegalXtop1 x s) (illegalXtop1_subByte x)
  case runTrx => exact takesIllegal_of_exec hopen (exec_illegalTrx x g s) (illegalTrx_subByte x g)
  case runRefused => exact (exec_refusedTrx x s).trans (gate65x02_open hopen _ _)

/-! ## MOVS (R375) -/

theorem exec_movsToSeg (g : SegReg) (r : RegField) (s : State) :
    exec (.movsToSeg g r) s = s.gate65x02 .xtop1Trx (.next ((s.advance 2).setSeg g (s.view 8 r.toNat))) := rfl

theorem exec_movsFromSeg (r : RegField) (g : SegReg) (s : State) :
    exec (.movsFromSeg r g) s = s.gate65x02 .xtop1Trx (.next (s.regOp r (s.seg g))) := rfl

@[simp] theorem State.seg_advance (s : State) (n : Nat) (g : SegReg) : (s.advance n).seg g = s.seg g := by
  cases g <;> rfl

/-- A segment selector reads back as written. -/
@[simp] theorem State.seg_setSeg_same (s : State) (g : SegReg) (v : Byte) : (s.setSeg g v).seg g = v := by
  cases g <;> rfl

/-- A write of a segment selector keeps the other two. -/
theorem State.seg_setSeg_other (s : State) {g h : SegReg} (v : Byte) (hne : h ≠ g) :
    (s.setSeg g v).seg h = s.seg h := by
  cases g with
  | ps =>
    cases h with
    | ps => exact absurd rfl hne
    | ds | ss => rfl
  | ds =>
    cases h with
    | ds => exact absurd rfl hne
    | ps | ss => rfl
  | ss =>
    cases h with
    | ss => exact absurd rfl hne
    | ps | ds => rfl

/-- The first numbers name the segments (R39). -/
theorem selector_eq_number : ∀ p ∈ [(0, SegReg.ps), (1, SegReg.ds), (2, SegReg.ss)], p.1 = p.2.number.toNat := by
  decide

/-- Settles O56: the two directions by the sub-decoder, one a write of a selector, the other a register operation. -/
theorem movsMovesOneByte : Obligations.MovsMovesOneByte := by
  refine ⟨fun p hp => ⟨?decodeTo, ?decodeFrom⟩, fun s g r hopen => ?runTo, fun s r g hopen => ?runFrom⟩
  case decodeTo =>
    exact subByteDecodesTo_of_decodeExt fun w h hlow =>
      decodeTrx_to_segment h (hlow.trans (selector_eq_number p hp))
  case decodeFrom =>
    exact subByteDecodesTo_of_decodeExt fun w h hlow =>
      decodeTrx_from_segment h (hlow.trans (selector_eq_number p hp))
  case runTo =>
    have hother : ∀ h, h ≠ g → ((s.advance 2).setSeg g (s.view 8 r.toNat)).seg h = s.seg h := fun h hne => by
      rw [State.seg_setSeg_other _ _ hne, State.seg_advance]
    exact ⟨_, (exec_movsToSeg g r s).trans (gate65x02_open hopen _ _), State.seg_setSeg_same _ g _, hother,
      by simp, by simp, by simp, by simp [sameRegs], by simp [sameMem], by simp [sameRun], by simp [sameMachine]⟩
  case runFrom => exact writesView_regOp (.inl rfl) ((exec_movsFromSeg r g s).trans (gate65x02_open hopen _ _))

end Sys2Proof.Machine
end

section
/-! PROOF. MATH and STOR (R390 to R403) behind an open gate: each family's sub-decoder by bits 7:6 of its sub-byte, then
one rule for the three widths, with MATH's sums as numbers and STOR's addresses as integers mod 2^16. -/

namespace Sys2Proof.Machine

open Sys2Proof.Claims

/-- A 3-bit field selects a view of every width (R141, D2). -/
theorem field_lt_views {w : Nat} (hw : w = 8 ∨ w = 16 ∨ w = 32) (d : RegField) : d.toNat < 256 / w := by
  have hd := d.isLt
  rcases hw with rfl | rfl | rfl <;> omega

/-! ## The sub-bytes of MATH (R138, R142) -/

section
variable {n : Nat} {f : Family} {add sub : RegField → RegField → Option (BitVec n) → Instr} {k : Window → BitVec n}
  (h : ∀ w, decodeExt f w =
    if w.b1.getLsbD 6 then sub (subMid w.b1) (subLow w.b1) (mathConst w.b1 (k w))
    else add (subMid w.b1) (subLow w.b1) (mathConst w.b1 (k w)))
include h

/-- The two top bits of a MATH sub-byte decide: the upper about the constant, the lower between ADD and SUB (D7). -/
theorem decodeExt_math_of_subTop {w : Window} {top : BitVec 2} (htop : subTop w.b1 = top) :
    decodeExt f w = (if top[0] then sub else add) (subMid w.b1) (subLow w.b1) (if top[1] then some (k w) else none) := by
  have hop : w.b1.getLsbD 6 = top[0] := htop ▸ byte_bit6_eq_subTop w.b1
  have hconst : w.b1.getLsbD 7 = top[1] := htop ▸ byte_bit7_eq_subTop w.b1
  rw [h, mathConst, hop, hconst]
  split <;> rfl

theorem mathEncoding_of_decodeExt : mathEncoding f add sub k :=
  ⟨subByteDecodesTo_of_decodeExt fun _ htop _ => decodeExt_math_of_subTop h htop,
    subByteDecodesTo_of_decodeExt fun _ htop _ => decodeExt_math_of_subTop h htop,
    subByteDecodesTo_of_decodeExt fun _ htop _ => decodeExt_math_of_subTop h htop,
    subByteDecodesTo_of_decodeExt fun _ htop _ => decodeExt_math_of_subTop h htop⟩
end

/-- Four bytes in two halves are the four bytes in a row. -/
theorem append_halves (b5 b4 b3 b2 : Byte) : ((b5 ++ b4) ++ (b3 ++ b2) : Slot) = b5 ++ b4 ++ b3 ++ b2 :=
  (BitVec.append_assoc (x₁ := b5 ++ b4) (x₂ := b3) (x₃ := b2)).symm

theorem mathEncoding_xtop1 : mathEncoding .xtop1Math .addB .subB (fun w => w.b2) :=
  mathEncoding_of_decodeExt fun _ => rfl

theorem mathEncoding_xtop2 : mathEncoding .xtop2Math .addW .subW (fun w => w.b3 ++ w.b2) :=
  mathEncoding_of_decodeExt fun _ => rfl

theorem mathEncoding_xtop3 : mathEncoding .xtop3Math .addL .subL (fun w => w.b5 ++ w.b4 ++ w.b3 ++ w.b2) :=
  mathEncoding_of_decodeExt fun w => by rw [← append_halves]; rfl

/-! ## ADD and SUB (R236, R390 to R396) -/

/-- A MATH result that is a number narrowed to the width goes to the view its field names, with the flags the number
gives, V = 0 among them (D2, R236). -/
theorem writesView_math {w : Nat} (hw : w = 8 ∨ w = 16 ∨ w = 32) {i : Instr} {s : State} {d : RegField}
    {len t : Nat} {c : Bool} (h : exec i s = .next (s.math d len { value := BitVec.ofNat w t, c := c })) :
    writesView w d.toNat (BitVec.ofNat w t)
      { s.flags with
        c := c
        z := decide (t % 2 ^ w = 0)
        n := decide (2 ^ (w - 1) ≤ t % 2 ^ w)
        v := false } len i s := by
  rw [State.math_eq, Flags.setMath_ofNat] at h
  exact writesView_of_exec hw (field_lt_views hw d) h

/-- What is added or subtracted as a number: equal fields leave the constant alone (R390, D43). -/
theorem State.mathOperand_toNat (s : State) {w : Nat} (d src : RegField) (k : Option (BitVec w)) :
    (s.mathSource w d src).toNat + (k.getD 0).toNat =
      (if d = src then 0 else (s.view w src.toNat).toNat) + k.elim 0 BitVec.toNat := by
  have hsource : (s.mathSource w d src).toNat = if d = src then 0 else (s.view w src.toNat).toNat := by
    rw [State.mathSource, apply_ite BitVec.toNat]
    rfl
  have hconst : (k.getD 0).toNat = k.elim 0 BitVec.toNat := by
    cases k <;> rfl
  rw [hsource, hconst]

theorem mathLength_eq_ite {α : Type} (n : Nat) (k : Option α) : mathLength n k = 2 + (if k.isSome then n else 0) := by
  rw [mathLength]
  split <;> rfl

/-- A pair of instructions that are the exact sum and difference behind their family's gate. -/
theorem mathRule_of_exec {w n : Nat} (hw : w = 8 ∨ w = 16 ∨ w = 32) (f : Family)
    {add sub : RegField → RegField → Option (BitVec w) → Instr}
    (hadd : ∀ s d src k, exec (add d src k) s = s.gate65x02 f
      (.next (s.math d (mathLength n k) (mathAdd (s.view w d.toNat) (s.mathSource w d src) (k.getD 0)))))
    (hsub : ∀ s d src k, exec (sub d src k) s = s.gate65x02 f
      (.next (s.math d (mathLength n k) (mathSub (s.view w d.toNat) (s.mathSource w d src) (k.getD 0))))) :
    mathRule w n add sub := by
  intro s d src k hopen
  have hrunAdd := (hadd s d src k).trans (gate65x02_open hopen f _)
  have hrunSub := (hsub s d src k).trans (gate65x02_open hopen f _)
  rw [mathAdd_toNat, State.mathOperand_toNat, mathLength_eq_ite] at hrunAdd
  rw [mathSub_toNat, State.mathOperand_toNat, mathLength_eq_ite] at hrunSub
  exact ⟨writesView_math hw hrunAdd, writesView_math hw hrunSub⟩

/-- Settles O57: the sub-bytes by the three sub-decoders, the effects by one rule for the three widths. -/
theorem mathAddsAndSubtracts : Obligations.MathAddsAndSubtracts :=
  ⟨mathEncoding_xtop1, mathEncoding_xtop2, mathEncoding_xtop3,
    mathRule_of_exec (.inl rfl) .xtop1Math (fun _ _ _ _ => rfl) fun _ _ _ _ => rfl,
    mathRule_of_exec (.inr (.inl rfl)) .xtop2Math (fun _ _ _ _ => rfl) fun _ _ _ _ => rfl,
    mathRule_of_exec (.inr (.inr rfl)) .xtop3Math (fun _ _ _ _ => rfl) fun _ _ _ _ => rfl⟩

/-! ## The addresses of STOR (R400, D11) -/

theorem addSigned_toNat (o : Half) (b : Byte) : ((addSigned o b).toNat : Int) = ((o.toNat : Int) + b.toInt) % 65536 := by
  rw [addSigned_eq_ofInt, BitVec.toNat_ofInt]
  exact Int.toNat_of_nonneg (Int.emod_nonneg _ (by decide))

/-- The index is added to the mode's base offset, mod 2^16. -/
theorem State.storeOff_toNat (s : State) (w : Nat) (src i : RegField) (m : StoreMode) :
    ((s.storeOff w src i m).toNat : Int) =
      ((s.storeBase m).toNat + (if i = src then 0 else ((s.view w i.toNat).setWidth 8).toInt)) % 65536 := by
  rw [State.storeOff]
  split
  · have hbase := (s.storeBase m).isLt
    omega
  · exact addSigned_toNat _ _

theorem State.storeBase_zp_toNat (s : State) (zz : Byte) : (s.storeBase (.zp zz)).toNat = zz.toNat :=
  BitVec.toNat_setWidth_of_le (by omega)

/-- In the stack mode the displacement and the index are both signed, and one reduction mod 2^16 does for both. -/
theorem State.storeOff_stack_toNat (s : State) (w : Nat) (src i : RegField) (dd : Byte) :
    ((s.storeOff w src i (.stack dd)).toNat : Int) =
      ((s.sp.toNat : Int) + dd.toInt + (if i = src then 0 else ((s.view w i.toNat).setWidth 8).toInt)) % 65536 := by
  rw [State.storeOff_toNat, State.storeBase, addSigned_toNat, Int.emod_add_emod]

/-- Settles O27: the segments by the mode, the offsets by the index arithmetic at each mode's base. -/
theorem storeAddressesFollowTheModes : Obligations.StoreAddressesFollowTheModes := by
  intro s src i zz dd seg a w _ index
  have hzp : ((s.storeOff w src i (.zp zz)).toNat : Int) = ((zz.toNat : Int) + index) % 65536 := by
    rw [State.storeOff_toNat, State.storeBase_zp_toNat]
  exact ⟨rfl, rfl, rfl, rfl, hzp, s.storeOff_toNat w src i (.abs a), s.storeOff_toNat w src i (.far a seg),
    s.storeOff_stack_toNat w src i dd⟩

/-! ## ST.b, ST.w and ST.l (R140, R400 to R403) -/

/-- A sub-decoder that reads the mode from bits 7:6 and its fields from the rest has the encoding of a STOR family
(D7). -/
theorem storEncoding_of_decodeExt {f : Family} {mk : RegField → RegField → StoreMode → Instr}
    (h : ∀ w, decodeExt f w = mk (subLow w.b1) (subMid w.b1) (decodeStoreMode w)) : storEncoding f mk := by
  have hmode : ∀ {w top}, subTop w.b1 = top → decodeExt f w = mk (subLow w.b1) (subMid w.b1)
      (if top = 0 then .zp w.b2 else if top = 1 then .abs (w.b3 ++ w.b2)
        else if top = 2 then .far (w.b3 ++ w.b2) w.b4 else .stack w.b2) := by
    rintro w _ rfl
    exact h w
  exact ⟨subByteDecodesTo_of_decodeExt fun _ htop _ => hmode htop,
    subByteDecodesTo_of_decodeExt fun _ htop _ => hmode htop,
    subByteDecodesTo_of_decodeExt fun _ htop _ => hmode htop,
    subByteDecodesTo_of_decodeExt fun _ htop _ => hmode htop⟩

/-- An instruction that is an indexed store of n bytes behind its family's gate (D6, D11, D12). -/
theorem storRule_of_exec {w n : Nat} (hn : n ≤ 65536) (f : Family) {mk : RegField → RegField → StoreMode → Instr}
    (h : ∀ s src i m, exec (mk src i m) s = s.gate65x02 f (.next (s.stor w n src i m))) : storRule w n mk := by
  intro s src i m hopen
  have hrun := (h s src i m).trans (gate65x02_open hopen f _)
  rw [State.stor_eq] at hrun
  refine ⟨_, hrun, fun hmem k hk => ?_, sameMemBut_writeLE s _ _ n _, rfl, rfl, rfl, rfl, ⟨rfl, rfl, rfl⟩, ⟨rfl, rfl⟩,
    rfl, rfl, rfl, rfl⟩
  exact (State.readByte_writeLE_same hmem _ _ hn _ hk).trans BitVec.setWidth_ushiftRight_eq_extractLsb

/-- Settles O58: the sub-bytes by the mode's sub-decoder, the effects by one rule for the three widths. -/
theorem indexedStoresWriteTheirBytes : Obligations.IndexedStoresWriteTheirBytes :=
  ⟨storEncoding_of_decodeExt fun _ => rfl, storEncoding_of_decodeExt fun _ => rfl,
    storEncoding_of_decodeExt fun _ => rfl,
    storRule_of_exec (by decide) .xtop1Stor fun _ _ _ _ => rfl,
    storRule_of_exec (by decide) .xtop2Stor fun _ _ _ _ => rfl,
    storRule_of_exec (by decide) .xtop3Stor fun _ _ _ _ => rfl⟩

end Sys2Proof.Machine
end

section
/-! PROOF. Exceptions and stopping (R450, R466 to R469): the halted step, the one step that has no next state, and the
host's run to a break, as the steps it takes and the configuration it gives back. -/

namespace Sys2Proof.Machine

open Sys2Proof.Claims

/-- Settles O7: state Halt is its own branch of the step. -/
theorem haltStepChangesNothing : Obligations.HaltStepChangesNothing := by
  intro s hrun
  rw [step, hrun]

/-! ## The reserved bit (R375, R450, R469) -/

theorem step_of_reset {s : State} (hrun : s.run = .reset) : step s = .next s.performReset := by
  rw [step, hrun]

/-- Open or closed, a gate before an effect answers a next state. -/
theorem gate65c02_answers (s u : State) (op : Byte) : ∃ t, s.gate65c02 op (.next u) = .next t := by
  rw [State.gate65c02]
  split <;> exact ⟨_, rfl⟩

theorem gate65x02_answers (s u : State) (f : Family) : ∃ t, s.gate65x02 f (.next u) = .next t := by
  rw [State.gate65x02]
  split <;> exact ⟨_, rfl⟩

/-- An instruction answers a next state, unless it is the TRX with its reserved bit set and its gate is open (D9). -/
theorem exec_answers_or_reserved (i : Instr) (s : State) :
    (∃ t, exec i s = .next t) ∨ ∃ x, i = .refusedTrx x ∧ s.config.allow65x02 = true := by
  cases i
  case refusedTrx x =>
    cases hgate : s.config.allow65x02 with
    | true => exact .inr ⟨x, rfl, rfl⟩
    | false => exact .inl ⟨_, (exec_refusedTrx x s).trans (gate65x02_closed hgate _ _)⟩
  case stz | bra => exact .inl (gate65c02_answers s _ _)
  case movNotB | segxB | illegalXtop1 | movNotW | andW | xorW | orW | movNotL | andL | xorL | orL | movsToSeg
      | movsFromSeg | illegalTrx | addB | subB | addW | subW | addL | subL | stB | stW | stL =>
    exact .inl (gate65x02_answers s _ _)
  all_goals exact .inl ⟨_, rfl⟩

/-- Settles O10: Reset and Halt answer a next state, an unknown byte takes its exception, and an instruction stops only
as `exec_answers_or_reserved` says. -/
theorem stepStopsOnlyAtTheReservedBit : Obligations.StepStopsOnlyAtTheReservedBit := by
  intro s
  cases hrun : s.run with
  | reset => exact .inl ⟨_, step_of_reset hrun⟩
  | halt => exact .inl ⟨s, haltStepChangesNothing s hrun⟩
  | normal =>
    cases hdecode : decode s.params.ext s.fetchWindow with
    | illegalOpcode op => exact .inl ⟨_, step_of_illegalOpcode hrun hdecode⟩
    | instr i =>
      have hstep := step_of_instr hrun hdecode
      rcases exec_answers_or_reserved i s with ⟨t, hexec⟩ | ⟨x, rfl, hgate⟩
      · rw [hexec] at hstep
        exact .inl ⟨_, hstep⟩
      · rw [exec_refusedTrx, gate65x02_open hgate] at hstep
        exact .inr ⟨hstep, rfl, hgate, x, rfl⟩

/-! ## The run to a break (R466, R467, D32) -/

/-- One more unit of fuel pays for one step: the run goes on from a Normal state and answers any other. -/
theorem runWhileNormal_succ_next_iff {fuel : Nat} {s u : State} :
    runWhileNormal (fuel + 1) s = some (.next u) ↔
      ∃ t, step s = .next t ∧ ((t.run = .normal ∧ runWhileNormal fuel t = some (.next u)) ∨
        (t.run ≠ .normal ∧ t = u)) := by
  rw [runWhileNormal]
  cases step s with
  | next t => by_cases hrun : t.run = .normal <;> simp [hrun]
  | fault r => cases r
  | refused r => simp

/-- A run that answers a state took steps through Normal states to one that is not Normal, within its fuel. -/
theorem runWhileNormal_next_iff {fuel : Nat} {s u : State} :
    runWhileNormal fuel s = some (.next u) ↔ u.run ≠ .normal ∧ ∃ n < fuel, stepsNormalTo n s u := by
  induction fuel generalizing s with
  | zero => simp [runWhileNormal]
  | succ fuel ih =>
    rw [runWhileNormal_succ_next_iff]
    constructor
    · rintro ⟨t, hstep, ⟨hrun, hrest⟩ | ⟨hrun, rfl⟩⟩
      · obtain ⟨hstop, n, hn, hsteps⟩ := ih.mp hrest
        exact ⟨hstop, n + 1, Nat.succ_lt_succ hn, t, hstep, hrun, hsteps⟩
      · exact ⟨hrun, 0, Nat.succ_pos fuel, hstep⟩
    · rintro ⟨hstop, n, hn, hsteps⟩
      cases n with
      | zero => exact ⟨u, hsteps, .inr ⟨hstop, rfl⟩⟩
      | succ n =>
        obtain ⟨t, hstep, hrun, hrest⟩ := hsteps
        exact ⟨t, hstep, .inl ⟨hrun, ih.mpr ⟨hstop, n, Nat.lt_of_succ_lt_succ hn, hrest⟩⟩⟩

theorem step_config {s t : State} (h : step s = .next t) : t.config = s.config := by
  obtain ⟨-, hconfig, -⟩ := step_keepsInv h
  exact hconfig

/-- No step of a run writes the configuration (R6). -/
theorem stepsNormalTo_config {n : Nat} {s t : State} (h : stepsNormalTo n s t) : t.config = s.config := by
  induction n generalizing s with
  | zero => exact step_config h
  | succ n ih =>
    obtain ⟨u, hstep, -, hrest⟩ := h
    exact (ih hrest).trans (step_config hstep)

/-- At the end of a run under the forced `haltOnBRK`, giving that field back gives the whole configuration back. -/
theorem State.setHaltOnBRK_restores {n : Nat} {s u : State} (h : stepsNormalTo n (s.unhalt.setHaltOnBRK true) u) :
    u.setHaltOnBRK s.config.haltOnBRK = { u with config := s.config } := by
  rw [State.setHaltOnBRK, State.setConfig, stepsNormalTo_config h]
  rfl

theorem executeUntilBreak_eq_next_iff {fuel : Nat} {s t : State} :
    executeUntilBreak fuel s = some (.next t) ↔
      ∃ u, runWhileNormal fuel (s.unhalt.setHaltOnBRK true) = some (.next u) ∧
        t = u.setHaltOnBRK s.config.haltOnBRK := by
  rw [executeUntilBreak]
  split
  next u hrun => simp [hrun, eq_comm]
  next hother =>
    refine ⟨fun h => (hother t h).elim, ?_⟩
    rintro ⟨u, hrun, -⟩
    exact (hother u hrun).elim

/-- The answer of `execute_until_break` is the end of a run of steps from the un-halted state under the forced
`haltOnBRK`, with the configuration given back. -/
theorem executeUntilBreak_next_iff {fuel : Nat} {s t : State} :
    executeUntilBreak fuel s = some (.next t) ↔
      ∃ n < fuel, ∃ u, stepsNormalTo n (s.unhalt.setHaltOnBRK true) u ∧ u.run ≠ .normal ∧
        t = { u with config := s.config } := by
  rw [executeUntilBreak_eq_next_iff]
  constructor
  · rintro ⟨u, hrun, rfl⟩
    obtain ⟨hstop, n, hn, hsteps⟩ := runWhileNormal_next_iff.mp hrun
    exact ⟨n, hn, u, hsteps, hstop, State.setHaltOnBRK_restores hsteps⟩
  · rintro ⟨n, hn, u, hsteps, hstop, rfl⟩
    exact ⟨u, runWhileNormal_next_iff.mpr ⟨hstop, n, hn, hsteps⟩, (State.setHaltOnBRK_restores hsteps).symm⟩

/-- Settles O60: the steps of the run, which more fuel does not change. -/
theorem runToBreakRestoresThePolicy : Obligations.RunToBreakRestoresThePolicy := by
  refine ⟨fun s t fuel => executeUntilBreak_next_iff, fun s t fuel more hanswer => ?_⟩
  obtain ⟨n, hn, u, hsteps, hstop, rfl⟩ := executeUntilBreak_next_iff.mp hanswer
  exact ⟨hstop, rfl, executeUntilBreak_next_iff.mpr ⟨n, Nat.lt_add_right more hn, u, hsteps, hstop, rfl⟩⟩

end Sys2Proof.Machine
end

section
/-! PROOF. Reset and the ways out of state Normal (R48, R450 to R456, R500 to R503): the step of reset(), and the
illegal instructions, each with the bytes it was read from and the step that takes it. -/

namespace Sys2Proof.Machine

open Sys2Proof.Claims

/-! ## Reset (R500, R501) -/

/-- In a file of zeros every view reads 0. -/
theorem State.view_of_zero_gpr {s : State} (h : s.gpr = Vector.replicate 8 0) (w n : Nat) : s.view w n = 0 := by
  have hslot : s.gpr.get (slotOf w n) = 0 := by
    rw [h, Vector.get_eq_getElem, Vector.getElem_replicate]
  rw [State.view, hslot]
  exact BitVec.extractLsb'_zero

/-- Settles O6: the step is reset(), whose every field `performReset_eq` says. -/
theorem resetStepPerformsReset : Obligations.ResetStepPerformsReset := by
  intro s hrun
  refine ⟨_, step_of_reset hrun, ?_⟩
  rw [State.performReset_eq, Nat.zero_add]
  exact ⟨rfl, rfl, rfl, rfl, rfl, State.view_of_zero_gpr rfl, rfl, rfl, rfl, rfl, rfl, fun _ _ => rfl, rfl, rfl⟩

/-! ## The bytes an instruction was read from -/

/-- The first byte of an instruction's encoding is the first byte of the window it was read from. -/
theorem first_byte_of_decode {e : ExtOpcodes} {w : Window} {i : Instr} {op : Byte} {rest : List Byte}
    (h : decode e w = .instr i) (hbytes : encode e i = op :: rest) : op = w.b0 := by
  obtain ⟨-, -, hprefix⟩ := encode_prefix_of_decode h
  rw [hbytes] at hprefix
  exact (List.cons_prefix_cons.mp hprefix).1

/-- An extension instruction is read from its family byte and its sub-byte (R136). -/
theorem extension_bytes_of_decode {e : ExtOpcodes} {w : Window} {i : Instr} {f : Family} {sub : Byte}
    (h : decode e w = .instr i) (hext : i.extension? = some (f, sub)) : w.b0 = e.byte f ∧ w.b1 = sub := by
  obtain ⟨-, -, hprefix⟩ := encode_prefix_of_decode h
  rw [encode_of_extension? hext] at hprefix
  obtain ⟨h0, hrest⟩ := List.cons_prefix_cons.mp hprefix
  exact ⟨h0.symm, (List.cons_prefix_cons.mp hrest).1.symm⟩

theorem State.gateOpen_of_extension? (s : State) {i : Instr} {p : Family × Byte} (h : i.extension? = some p) :
    s.gateOpen i = s.config.allow65x02 := by
  simp only [State.gateOpen, h]

/-! ## ILLEGAL_OPCODE (R451) -/

/-- An instruction behind a closed gate is one of R451's cases 2 and 3, and its step takes ILLEGAL_OPCODE with its first
byte for one cycle (R134, D28, D35). -/
theorem step_of_gate_closed {s : State} {i : Instr} (hrun : s.run = .normal)
    (hi : decode s.params.ext s.fetchWindow = .instr i) (hgate : s.gateOpen i = false) :
    illegalOpcodeAt s ∧ step s = .next ((s.illegalOpcode s.fetchWindow.b0).charge 1) := by
  obtain ⟨hw, -, -⟩ := encode_prefix_of_decode hi
  obtain ⟨op, rest, hbytes, hexec, hcases⟩ := exec_gate_closed hgate hw
  obtain rfl := first_byte_of_decode hi hbytes
  have hcost : s.cycleCost i = 1 := if_neg (Bool.eq_false_iff.mp hgate)
  refine ⟨.inr hcases, ?_⟩
  rw [step_of_instr hrun hi, hexec, hcost, chargeOutcome]

/-- Each of the five gated bytes of R451's case 2 starts a BRA or an STZ (R135). -/
theorem decode_gated65c02 (e : ExtOpcodes) {w : Window} (h : w.b0 ∈ [0x80#8, 0x64#8, 0x74#8, 0x9C#8, 0x9E#8]) :
    (∃ r, decode e w = .instr (.bra r)) ∨ ∃ m, decode e w = .instr (.stz m) := by
  simp only [List.mem_cons, List.not_mem_nil, or_false] at h
  rcases h with h | h | h | h | h
  · exact .inl ⟨_, decodesTo_of_lookup rfl e w h⟩
  all_goals exact .inr ⟨_, decodesTo_of_lookup rfl e w h⟩

theorem ExtOpcodes.exists_family_of_mem {e : ExtOpcodes} {b : Byte} (h : b ∈ e.bytes) : ∃ f, b = e.byte f := by
  cases hf : e.family? b with
  | none => exact absurd h (ExtOpcodes.family?_eq_none_iff.mp hf)
  | some f => exact ⟨f, (ExtOpcodes.byte_of_family? hf).symm⟩

/-- Every byte of R451 takes ILLEGAL_OPCODE with that byte for one cycle. -/
theorem step_of_illegalOpcodeAt {s : State} (hrun : s.run = .normal) (he : s.params.ext.wf = true)
    (h : illegalOpcodeAt s) : step s = .next ((s.illegalOpcode s.fetchWindow.b0).charge 1) := by
  rcases h with ⟨hfree, hext⟩ | ⟨hop, hgate⟩ | ⟨hext, hgate⟩
  · exact step_of_illegalOpcode hrun ((illegalBytesAreTheFreeOnes _ _ _).mpr ⟨rfl, hfree, hext⟩)
  · rcases decode_gated65c02 s.params.ext hop with ⟨r, hi⟩ | ⟨m, hi⟩
    · exact (step_of_gate_closed hrun hi hgate).2
    · exact (step_of_gate_closed hrun hi hgate).2
  · obtain ⟨f, hf⟩ := ExtOpcodes.exists_family_of_mem hext
    obtain ⟨-, hsub, -⟩ := decodeExt_reads f s.fetchWindow
    exact (step_of_gate_closed hrun (decode_extension he hf) ((s.gateOpen_of_extension? hsub).trans hgate)).2

/-! ## ILLEGAL_SUBOP (R452) -/

/-- The instructions an unrecognised sub-byte is read as (R137, R139). -/
def unrecognised : Instr → Bool
  | .illegalXtop1 _ | .illegalTrx _ _ => true
  | _ => false

theorem extension?_illegalTrx (x : BitVec 4) {g : BitVec 3} (hg : 3 ≤ g.toNat) :
    (Instr.illegalTrx x g).extension? = some (.xtop1Trx, 0#1 ++ x ++ g) := if_pos hg

/-- An unrecognised sub-byte behind an open gate takes ILLEGAL_SUBOP with both bytes for two cycles (D26). -/
theorem step_of_unrecognised {s : State} {i : Instr} (hrun : s.run = .normal)
    (hi : decode s.params.ext s.fetchWindow = .instr i) (hgate : s.config.allow65x02 = true)
    (hsub : unrecognised i = true) :
    step s = .next ((s.raiseIllegal .subop [s.fetchWindow.b0, s.fetchWindow.b1]).charge 2) := by
  obtain ⟨hw, -, -⟩ := encode_prefix_of_decode hi
  have hopen {p} (hext : i.extension? = some p) : s.gateOpen i = true := (s.gateOpen_of_extension? hext).trans hgate
  cases i
  case illegalXtop1 x =>
    obtain ⟨h0, h1⟩ := extension_bytes_of_decode hi rfl
    have hcost : s.cycleCost (.illegalXtop1 x) = 2 := if_pos (hopen rfl)
    rw [step_of_instr hrun hi, exec_illegalXtop1, gate65x02_open hgate, hcost, h0, h1]
    rfl
  case illegalTrx x g =>
    have hext := extension?_illegalTrx x (of_decide_eq_true hw)
    obtain ⟨h0, h1⟩ := extension_bytes_of_decode hi hext
    have hcost : s.cycleCost (.illegalTrx x g) = 2 := if_pos (hopen hext)
    rw [step_of_instr hrun hi, exec_illegalTrx, gate65x02_open hgate, hcost, h0, h1]
    rfl
  all_goals cases hsub

/-- A sub-byte read as unrecognised behind an open gate is one of R452. -/
theorem illegalSubopAt_of_unrecognised {s : State} {i : Instr} (hi : decode s.params.ext s.fetchWindow = .instr i)
    (hgate : s.config.allow65x02 = true) (hsub : unrecognised i = true) : illegalSubopAt s := by
  obtain ⟨hw, -, -⟩ := encode_prefix_of_decode hi
  cases i
  case illegalXtop1 x =>
    obtain ⟨h0, h1⟩ := extension_bytes_of_decode hi rfl
    rw [illegalXtop1_subByte] at h1
    have hx := x.isLt
    refine ⟨hgate, .inl ⟨h0, ?_⟩⟩
    rw [h1, BitVec.toNat_ofNat]
    omega
  case illegalTrx x g =>
    have hg : 3 ≤ g.toNat := of_decide_eq_true hw
    obtain ⟨h0, h1⟩ := extension_bytes_of_decode hi (extension?_illegalTrx x hg)
    rw [illegalTrx_subByte] at h1
    have hx := x.isLt
    have hlt := g.isLt
    refine ⟨hgate, .inr ⟨h0, ?_⟩⟩
    rw [h1, BitVec.toNat_ofNat]
    omega
  all_goals cases hsub

theorem subTop_toNat (b : Byte) : (subTop b).toNat = b.toNat / 64 := by
  have hb := b.isLt
  rw [subTop, BitVec.extractLsb'_toNat, Nat.shiftRight_eq_div_pow]
  omega

theorem decodeXtop1_of_upper_half {b : Byte} (h : 128 ≤ b.toNat) :
    decodeXtop1 b = .illegalXtop1 (b.extractLsb' 0 7) := by
  have hop {op : BitVec 2} (hlt : op.toNat < 2) : subTop b ≠ op := by
    rintro rfl
    rw [subTop_toNat] at hlt
    omega
  rw [decodeXtop1, if_neg (hop (by decide)), if_neg (hop (by decide))]

theorem decodeTrx_of_lower_half {b : Byte} (h : b.toNat < 128) (hlow : 3 ≤ b.toNat % 8) :
    decodeTrx b = .illegalTrx (b.extractLsb' 3 4) (subLow b) := by
  have htop : (subTop b)[1] = false := by
    rw [← byte_bit7_eq_subTop, ← BitVec.getLsbD_eq_getElem, byte_bit7]
    exact decide_eq_false (Nat.not_le.mpr h)
  exact decodeTrx_of_no_segment htop hlow

/-- Every sub-byte of R452 is read as unrecognised. -/
theorem exists_unrecognised_of_illegalSubopAt {s : State} (he : s.params.ext.wf = true) (h : illegalSubopAt s) :
    ∃ i, decode s.params.ext s.fetchWindow = .instr i ∧ unrecognised i = true := by
  obtain ⟨-, ⟨h0, hb⟩ | ⟨h0, hb, hlow⟩⟩ := h
  · refine ⟨_, decode_extension he (f := .xtop1) h0, ?_⟩
    rw [decodeExt, decodeXtop1_of_upper_half hb, unrecognised]
  · refine ⟨_, decode_extension he (f := .xtop1Trx) h0, ?_⟩
    rw [decodeExt, decodeTrx_of_lower_half hb hlow, unrecognised]

/-! ## The ways out of Normal (R453, R503) -/

/-- An exception leaves Normal only when the policy does not ignore it (R453). -/
theorem ignore_off_of_raiseIllegal_run {s : State} {cause : IllegalCause} {bytes : List Byte} {k : Nat}
    (hrun : s.run = .normal) (hne : ((s.raiseIllegal cause bytes).charge k).run ≠ .normal) :
    s.config.ignoreIllegalInstructions = false := by
  refine Bool.eq_false_iff.mpr fun hignore => hne ?_
  rw [State.charge_run, State.raiseIllegal_run, Configuration.illegalRun, if_pos hignore, hrun]

/-- The trap entry leaves Normal only to Halt, by `haltOnBRK` (R305, R456). -/
theorem haltOnBRK_of_enterBreak_run {s : State} (hrun : s.run = .normal) (hne : s.enterBreak.run ≠ .normal) :
    s.enterBreak.run = .halt ∧ s.config.haltOnBRK = true := by
  rw [State.enterBreak_eq] at hne ⊢
  cases hhalt : s.config.haltOnBRK with
  | true => exact ⟨rfl, rfl⟩
  | false => exact absurd (by simp [hhalt, hrun]) hne

/-- A step out of Normal is the halting BRK, or takes the exception of a byte of R451 or of a sub-byte of R452. -/
theorem step_leaves_normal {s t : State} (hrun : s.run = .normal) (h : step s = .next t) (hne : t.run ≠ .normal) :
    (decode s.params.ext s.fetchWindow = .instr .brk ∧ t.run = .halt ∧ s.config.haltOnBRK = true) ∨
    (illegalOpcodeAt s ∧ t = (s.illegalOpcode s.fetchWindow.b0).charge 1) ∨
    (illegalSubopAt s ∧ t = (s.raiseIllegal .subop [s.fetchWindow.b0, s.fetchWindow.b1]).charge 2) := by
  have answer {u : State} (hu : step s = .next u) : t = u := by
    injection h.symm.trans hu
  rcases step_cases h with ⟨hr, -⟩ | ⟨hr, -⟩ | ⟨-, i, u, hi, hexec, rfl⟩ | ⟨-, op, hop, -⟩
  · cases hrun.symm.trans hr
  · cases hrun.symm.trans hr
  · cases hgate : s.gateOpen i with
    | false =>
      obtain ⟨hat, hstep⟩ := step_of_gate_closed hrun hi hgate
      exact .inr (.inl ⟨hat, answer hstep⟩)
    | true =>
      obtain ⟨hw, -, -⟩ := encode_prefix_of_decode hi
      have subop (hopen : s.config.allow65x02 = true) (hsub : unrecognised i = true) :=
        And.intro (illegalSubopAt_of_unrecognised hi hopen hsub) (answer (step_of_unrecognised hrun hi hopen hsub))
      rcases exec_gate_open hgate hw hexec with ⟨hkept, -⟩ | ⟨rfl, rfl⟩ | ⟨x, rfl, -⟩ | ⟨x, g, rfl, hg, -⟩
      · exact absurd (hkept.trans hrun) hne
      · exact .inl ⟨hi, haltOnBRK_of_enterBreak_run hrun hne⟩
      · exact .inr (.inr (subop ((s.gateOpen_of_extension? rfl).symm.trans hgate) rfl))
      · exact .inr (.inr (subop ((s.gateOpen_of_extension? (extension?_illegalTrx x hg)).symm.trans hgate) rfl))
  · obtain ⟨rfl, hfree, hext⟩ := (illegalBytesAreTheFreeOnes _ _ _).mp hop
    exact .inr (.inl ⟨.inl ⟨hfree, hext⟩, answer (step_of_illegalOpcode hrun hop)⟩)

/-- Settles O11: the ways out by `step_leaves_normal`, the exceptions by the step each kind takes. -/
theorem normalIsLeftOnlyByBreakOrIllegal : Obligations.NormalIsLeftOnlyByBreakOrIllegal := by
  refine ⟨fun s t hrun hstep hne => ?_, fun s hrun he hat => ?_, fun s hrun he hat => ?_⟩
  · rcases step_leaves_normal hrun hstep hne with ⟨hi, hhalt, hconfig⟩ | ⟨hat, rfl⟩ | ⟨hat, rfl⟩
    · exact .inl ⟨hhalt, hi, hconfig⟩
    · exact .inr ⟨ignore_off_of_raiseIllegal_run hrun hne, _, .inl ⟨hat, rfl, s.raiseIllegal_takes _ _⟩⟩
    · exact .inr ⟨ignore_off_of_raiseIllegal_run hrun hne, _, .inr ⟨hat, rfl, s.raiseIllegal_takes _ _⟩⟩
  · exact ⟨_, step_of_illegalOpcodeAt hrun he hat, s.raiseIllegal_takes _ _⟩
  · obtain ⟨i, hi, hsub⟩ := exists_unrecognised_of_illegalSubopAt he hat
    have hgate : s.config.allow65x02 = true := hat.1
    exact ⟨_, step_of_unrecognised hrun hi hgate hsub, s.raiseIllegal_takes _ _⟩

end Sys2Proof.Machine
end

section
/-! PROOF. The cycle costs (R520 to R522): the constraints every free part meets, and the free part that gives the
recommended tables. -/

namespace Sys2Proof.Machine

open Sys2Proof.Claims

/-! ## The constraints (R520) -/

section

variable (free : CycleKey → Bool → Bool → Nat)

/-- A read whose index crosses a page costs one more than the same read without (constraint 3). -/
theorem costRead_crossed (i : Instr) (taken : Bool) :
    costRead free i ⟨true, taken⟩ = costRead free i ⟨false, taken⟩ + 1 := rfl

/-- A taken branch into another page costs one more than one inside its page (constraint 4). -/
theorem costBranch_crossed (i : Instr) : costBranch free i ⟨true, true⟩ = costBranch free i ⟨false, true⟩ + 1 := rfl

/-- A STOR with an index costs one more than the same STOR without (constraint 7). -/
theorem costStore_indexed (f : Family) {src j : RegField} (m : StoreMode) (h : j ≠ src) :
    costStore free f src j m = costStore free f src src m + 1 := by
  simp [costStore, extra, h]

/-- Mode 3 costs one more on top of the opcode fetch (constraint 7). -/
theorem two_le_costStore_stack (f : Family) (src j : RegField) (dd : Byte) :
    2 ≤ costStore free f src j (.stack dd) := by
  have hmode : extra ((StoreMode.stack dd).number == 3) = 1 := rfl
  rw [costStore, hmode]
  omega

theorem cycleCostWith_indexedRead_crossed (m : MemMode) (taken : Bool) : ∀ i ∈ indexedReads (.mem m),
    cycleCostWith free i ⟨true, taken⟩ = cycleCostWith free i ⟨false, taken⟩ + 1 := by
  simp only [indexedReads, List.forall_mem_cons, List.not_mem_nil, false_implies, implies_true, and_true]
  and_intros <;> exact costRead_crossed free _ taken

theorem cycleCostWith_branch_crossed (r : Byte) : ∀ b ∈ branches r,
    cycleCostWith free b.1 ⟨true, true⟩ = cycleCostWith free b.1 ⟨false, true⟩ + 1 := by
  simp only [branches, List.forall_mem_cons, List.not_mem_nil, false_implies, implies_true, and_true]
  and_intros <;> exact costBranch_crossed free _

end

/-! ## The bits a step gives (R131, R285, D31) -/

theorem State.cycleContext_indexedRead (s : State) (o : Operand) : ∀ i ∈ indexedReads o,
    s.cycleContext i = ⟨s.operandCross o, false⟩ := by
  simp only [indexedReads, List.forall_mem_cons, List.not_mem_nil, false_implies, implies_true, and_true]
  and_intros <;> rfl

theorem State.cycleContext_branch (s : State) (r : Byte) : ∀ b ∈ branches r,
    s.cycleContext b.1 = ⟨s.branchCross r, b.2 s.flags⟩ := by
  simp only [branches, List.forall_mem_cons, List.not_mem_nil, false_implies, implies_true, and_true]
  and_intros <;> rfl

/-- The page of a branch's target against the page of the instruction after the branch, as integers. -/
theorem State.branchCross_eq (s : State) (r : Byte) :
    let next : Int := ((s.pc.toNat : Int) + 2) % 65536
    s.branchCross r = decide (next / 256 ≠ (next + r.toInt) % 65536 / 256) := by
  intro next
  have hnext : (s.branchNext.toNat : Int) = next := by
    rw [State.branchNext, BitVec.toNat_add]
    rfl
  have htarget : ((s.branchTarget r).toNat : Int) = (next + r.toInt) % 65536 := by
    rw [State.branchTarget, addSigned_toNat, hnext]
  rw [State.branchCross, pageCross_toNat, ← htarget, ← hnext]
  apply decide_eq_decide.mpr
  omega

/-- Settles O17: each constraint by the cost of its class, each bit by the context of its list. -/
theorem cycleCostsMeetTheConstraints : Obligations.CycleCostsMeetTheConstraints := by
  intro free
  refine ⟨one_le_cycleCostWith free, fun _ _ => rfl, cycleCostWith_indexedRead_crossed free,
    cycleCostWith_branch_crossed free, fun s v => s.cycleContext_indexedRead (.imm v),
    fun s m => s.cycleContext_indexedRead (.mem m), State.cycleContext_branch, State.branchCross_eq,
    fun _ _ => rfl, fun _ _ _ => rfl, fun src j m x h => ?_, fun src j dd x => ?_, fun _ _ => rfl⟩
  · exact ⟨costStore_indexed free _ m h, costStore_indexed free _ m h, costStore_indexed free _ m h⟩
  · exact ⟨two_le_costStore_stack free _ src j dd, two_le_costStore_stack free _ src j dd,
      two_le_costStore_stack free _ src j dd⟩

/-! ## The recommended tables (R521, R522) -/

/-- The recommended cost of the row's instruction does not depend on the operand bytes. -/
def CostsByRow (r : OpcodeRow) : Prop := ∀ v w x, recommendedCost (r.2 v) x = recommendedCost (r.2 w) x

theorem loadStoreRows_cost : ∀ r ∈ loadStoreRows, CostsByRow r := by
  simp only [loadStoreRows, List.forall_mem_cons, List.not_mem_nil, false_implies, implies_true, and_true]
  and_intros <;> exact fun _ _ _ => rfl

theorem aluRows_cost : ∀ r ∈ aluRows, CostsByRow r := by
  simp only [aluRows, List.forall_mem_cons, List.not_mem_nil, false_implies, implies_true, and_true]
  and_intros <;> exact fun _ _ _ => rfl

theorem compareModifyRows_cost : ∀ r ∈ compareModifyRows, CostsByRow r := by
  simp only [compareModifyRows, List.forall_mem_cons, List.not_mem_nil, false_implies, implies_true, and_true]
  and_intros <;> exact fun _ _ _ => rfl

theorem controlRows_cost : ∀ r ∈ controlRows, CostsByRow r := by
  simp only [controlRows, List.forall_mem_cons, List.not_mem_nil, false_implies, implies_true, and_true]
  and_intros <;> exact fun _ _ _ => rfl

theorem standardTable_cost : ∀ r ∈ standardTable, CostsByRow r := by
  simp only [standardTable, List.forall_mem_append]
  exact ⟨⟨⟨loadStoreRows_cost, aluRows_cost⟩, compareModifyRows_cost⟩, controlRows_cost⟩

/-- A well-formed instruction of R132 is made by the row of its opcode byte. -/
theorem exists_row {i : Instr} (hext : i.extension? = none) (hw : i.wellFormed = true) :
    ∃ op mk w, i.opcode? = some op ∧ standardTable.lookup op = some mk ∧ i = mk w := by
  have he : Config.extOpcode.wf = true := ExtOpcodes.ofCodes_wf _
  cases hop : i.opcode? with
  | none => exact absurd (by simp only [encode, hop, hext]) (encode_ne_nil hw Config.extOpcode)
  | some op =>
    have hdecode := decodeEncodeAgree Config.extOpcode i [] he hw
    rw [encode_of_opcode? hop] at hdecode
    cases hrow : standardTable.lookup op with
    | some mk =>
      rw [decode_of_lookup hrow Config.extOpcode rfl] at hdecode
      injection hdecode with hmk
      exact ⟨op, mk, _, rfl, hrow, hmk.symm⟩
    | none =>
      generalize hwin : Window.ofList (op :: i.operandBytes ++ []) = w at hdecode
      have hb0 : w.b0 = op := by
        rw [← hwin]
        rfl
      simp only [decode, decodeStandard, hb0, hrow, Option.map_none] at hdecode
      split at hdecode
      case h_1 f hf =>
        obtain ⟨-, hsub, -⟩ := decodeExt_reads f w
        injection hdecode with hi
        cases hext.symm.trans (hi ▸ hsub)
      case h_2 => cases hdecode

/-- The least recommended cost is that of the opcode fetch (constraint 1 of R520). -/
theorem one_le_recommendedCost (i : Instr) (x : CycleContext) : 1 ≤ recommendedCost i x := by
  have hread (f : Form) : 1 ≤ readBase f := by cases f <;> decide
  have hwrite (f : Form) : 1 ≤ writeBase f := by cases f <;> decide
  have hmodify (f : Form) : 1 ≤ modifyBase f := by cases f <;> decide
  cases i
  case lda o | ldx o | ldy o | adc o | sbc o | and o | eor o | ora o | cmp o => exact Nat.le_add_right_of_le (hread _)
  case cpx o | cpy o => exact hread _
  case bit m => exact hread _
  case sta m | stx m | sty m | stz m => exact hwrite _
  case inc | dec | asl | lsr | rol | ror => exact hmodify _
  all_goals
    simp only [recommendedCost]
    omega

/-- The free part of a standard opcode: what its row's recommended cost has over the opcode fetch, before a page
cross. -/
def standardFree (op : Byte) (taken : Bool) : Nat :=
  (standardTable.lookup op).elim 0 fun mk => recommendedCost (mk (Window.ofList [op])) ⟨false, taken⟩ - 1

/-- The free part of an extension sub-byte (R522): the rest of the two bytes' cost, one for each byte of a MATH
constant, and for a STOR one for each operand byte and one for each byte written. -/
def extensionFree : Family → Byte → Nat
  | .xtop1, _ | .xtop2, _ | .xtop3, _ | .xtop1Trx, _ => 1
  | .xtop1Math, b => 1 + (if b.getLsbD 7 then 1 else 0)
  | .xtop2Math, b => 1 + (if b.getLsbD 7 then 2 else 0)
  | .xtop3Math, b => 1 + (if b.getLsbD 7 then 4 else 0)
  | .xtop1Stor, b => 1 + storeLength (decodeStoreMode (Window.ofList [0, b])) + 1
  | .xtop2Stor, b => 1 + storeLength (decodeStoreMode (Window.ofList [0, b])) + 2
  | .xtop3Stor, b => 1 + storeLength (decodeStoreMode (Window.ofList [0, b])) + 4

/-- The free part that gives the recommended tables. -/
def recommendedFree : CycleKey → Bool → Bool → Nat
  | .standard op, _, taken => standardFree op taken
  | .extension f sub, _, _ => extensionFree f sub

/-- With the opcode fetch, the free part is the recommended cost before a page cross. -/
theorem one_add_recommendedFree_standard {i : Instr} (hext : i.extension? = none) (hw : i.wellFormed = true)
    (crossed taken : Bool) : 1 + recommendedFree (cycleKey i) crossed taken = recommendedCost i ⟨false, taken⟩ := by
  obtain ⟨op, mk, w, hop, hrow, rfl⟩ := exists_row hext hw
  obtain ⟨before, after, htable, -⟩ := List.lookup_eq_some_iff.mp hrow
  have hcost : CostsByRow (op, mk) := standardTable_cost _ (htable ▸ List.mem_append_right before List.mem_cons_self)
  have hkey : cycleKey (mk w) = .standard op := by
    simp only [cycleKey, hext, hop, Option.getD_some]
  rw [hkey, recommendedFree, standardFree, hrow, Option.elim_some, hcost _ w]
  exact Nat.add_sub_of_le (one_le_recommendedCost _ _)

section

variable {i : Instr} (hext : i.extension? = none) (hw : i.wellFormed = true)
include hext hw

theorem costRead_recommendedFree (x : CycleContext)
    (hcost : recommendedCost i x = recommendedCost i ⟨false, false⟩ + extra x.crossed) :
    costRead recommendedFree i x = recommendedCost i x := by
  rw [costRead, one_add_recommendedFree_standard hext hw, hcost]

theorem costBranch_recommendedFree (x : CycleContext)
    (hcost : ∀ y, recommendedCost i y = 2 + extra y.taken + (if y.taken then extra y.crossed else 0)) :
    costBranch recommendedFree i x = recommendedCost i x := by
  have hcrossed : (if x.taken then extra false else 0) = 0 := ite_self 0
  rw [costBranch, one_add_recommendedFree_standard hext hw, hcost, hcost x, hcrossed, Nat.add_zero]

theorem costFree_recommendedFree (x : CycleContext) (hcost : recommendedCost i x = recommendedCost i ⟨false, x.taken⟩) :
    costFree recommendedFree i x = recommendedCost i x := by
  rw [costFree, one_add_recommendedFree_standard hext hw, hcost]

end

/-- Bit 7 of a MATH sub-byte says that a constant follows (R138). -/
theorem bit7_mathSubByte (k sub : Bool) (d s : RegField) : (subByte (mathTop k sub) d s).getLsbD 7 = k := by
  rw [BitVec.getLsbD_eq_getElem (by decide), subByte_bit7]
  exact (mathTop_bits k sub).1

/-- The number of operand bytes of a STOR stands in its sub-byte (R140). -/
theorem storeLength_of_subByte (m : StoreMode) (op : Byte) (i s : RegField) :
    storeLength (decodeStoreMode (Window.ofList [op, subByte m.number i s])) = storeLength m := by
  cases m <;> simp [decodeStoreMode, StoreMode.number, Window.ofList, storeLength]

/-- Settles O18 with `recommendedFree`, class by class of `cycleCostWith`. -/
theorem recommendedCyclesAreAdmitted : Obligations.RecommendedCyclesAreAdmitted := by
  refine ⟨recommendedFree, fun s i hw => ?_⟩
  generalize hx : s.cycleContext i = x
  cases i
  case adc o =>
    cases o with
    | imm v => subst hx; rfl
    | mem m => exact costRead_recommendedFree rfl hw x rfl
  case lda | ldx | ldy | sbc | and | eor | ora | cmp => exact costRead_recommendedFree rfl hw x rfl
  case bpl | bmi | bvc | bvs | bcc | bcs | bne | beq | bra => exact costBranch_recommendedFree rfl hw x fun _ => rfl
  case illegalXtop1 | illegalTrx => rfl
  case movNotB | segxB | movNotW | andW | xorW | orW | movNotL | andL | xorL | orL | movsToSeg | movsFromSeg
      | refusedTrx => rfl
  case addB d s k | subB d s k | addW d s k | subW d s k | addL d s k | subL d s k =>
    simp only [cycleCostWith, costFree, cycleKey, Instr.extension?, recommendedFree, extensionFree, bit7_mathSubByte,
      recommendedCost]
    omega
  case stB s j m | stW s j m | stL s j m =>
    simp only [cycleCostWith, costStore, recommendedFree, extensionFree, storeLength_of_subByte, recommendedCost]
    omega
  all_goals exact costFree_recommendedFree rfl hw x rfl

end Sys2Proof.Machine
end
